-- ==== Sys2Proof/Word.lean ====
section
/-! DEFINITION. The two word types of the spec (R11 of 00_scope.md) and byte sequences (R12). -/

namespace Sys2Proof

/-- A byte, u8 (R11). -/
abbrev Byte := BitVec 8

/-- A u16 (R11): the checksum register and every two-byte field. -/
abbrev Word := BitVec 16

/-- A byte sequence (R12): index 0 is the first byte on the wire and the lowest offset. -/
abbrev Bytes := List Byte

end Sys2Proof
end

