-- ==== Sys2Proof/Config.lean ====
section
/-! DEFINITION. What is fixed for the machine: the constants the spec fixes (R8, R10 of 00_scope.md), the shape of the
parameters it leaves open (R9), and the free values behind the open ones. The open values are `opaque` constants
without a body: nothing is known of them but their type. -/

namespace Sys2Proof

/-- The nine effect-module kinds, in the source's order, numbered 0 to 8 (R16, R74). -/
inductive ModuleKind where
  | fx | od | amp | cab | ns | eq | mod | delay | reverb
deriving DecidableEq, Repr

/-- MODULE_SIZE[k] (R8): the constant length in bytes of a module record. -/
def ModuleKind.size : ModuleKind → Nat
  | .fx => 13
  | .od => 11
  | .amp => 17
  | .cab => 13
  | .ns => 11
  | .eq => 23
  | .mod => 15
  | .delay => 17
  | .reverb => 13

/-- Length of a module's body, the bytes after its 3-byte header (R30). -/
def ModuleKind.bodyLen (k : ModuleKind) : Nat := k.size - 3

/-- MODULE_OFF[k] (R10, R69): where the record stands in the preset record. -/
def ModuleKind.offset : ModuleKind → Nat
  | .fx => 26
  | .od => 39
  | .amp => 50
  | .cab => 67
  | .ns => 80
  | .eq => 91
  | .mod => 114
  | .delay => 129
  | .reverb => 146

/-- The nine kinds as a list, in order. -/
def ModuleKind.all : List ModuleKind := [.fx, .od, .amp, .cab, .ns, .eq, .mod, .delay, .reverb]

namespace Config

/-- REPORT_SIZE (R8). -/
def reportSize : Nat := 64
/-- CHUNK_MAX (R8): most meaningful bytes in one report. -/
def chunkMax : Nat := 63
/-- CRC_INIT (R8). -/
def crcInit : Word := 0xFFFF
/-- MAX_SINGLE_PAYLOAD (R10). -/
def maxSinglePayload : Nat := 56
/-- MAX_PAYLOAD (R10). -/
def maxPayload : Nat := 65534
/-- PRESET_SIZE (R8). -/
def presetSize : Nat := 512
/-- EFFECT_ORDER_LEN (R8). -/
def effectOrderLen : Nat := 10
/-- NAME_LEN (R8). -/
def nameLen : Nat := 14
/-- LISTED_FIELDS_END (R10): the first byte of the preset's reserved tail. -/
def listedFieldsEnd : Nat := 159
/-- TAIL_LEN (R10). -/
def tailLen : Nat := 353
/-- SLOT_MAX (R8): the legal preset slots of the command layer are 0 to 199. -/
def slotMax : Int := 199
/-- VOLUME_MAX (R8). -/
def volumeMax : Int := 100
/-- GNR_MAGIC (R9, R239), the ASCII bytes of mooerge and a null. -/
def gnrMagic : Bytes := [0x6D, 0x6F, 0x6F, 0x65, 0x72, 0x67, 0x65, 0x00]

end Config

/-- An entry of a field table: a parameter's name, its offset in the module record and its width in bytes (R9, R178). -/
structure FieldEntry where
  name : String
  offset : Nat
  width : Nat
deriving DecidableEq, Repr

/-- The parameter names the source settles (R178): the header's three for every kind, time_ms for delay, the twelve bands
for eq. -/
def settledNames : List String :=
  ["header", "enabled", "type", "time_ms", "band0", "band1", "band2", "band3", "band4", "band5", "band6", "band7",
   "band8", "band9", "band10", "band11"]

/-- An open entry the spec admits in FIELD_TABLE(k): every other parameter name (R178), so a settled name names nothing
more in any kind (time_ms is a field of delay only); inside the record, width 1 or 2 (R273). Entry 10. -/
def FieldEntry.fits (e : FieldEntry) (k : ModuleKind) : Bool :=
  decide (e.offset + e.width ≤ k.size) && (e.width == 1 || e.width == 2) && !settledNames.contains e.name

/-- Which per-byte step function CRC_STEP is provisioned (R272): the vendor's, of which only the constraints of R93 are
known, or the test configuration's fixture (95_test_vectors.md, section 0), with which the machine can be run end to
end and under which no claim about the device may be made. DESIGN CHOICE, safe, entry 7. -/
inductive CrcStepId where
  | vendor
  | testFixture
deriving DecidableEq, Repr

/-- The parameters the source leaves open (R9): provisioned once, the same for every operation of a run (R25, R273). -/
structure Params where
  /-- CRC_STEP (D3). -/
  crcStep : CrcStepId
  /-- SIZE_FIELD_VALUE (D13). -/
  sizeFieldValue : Word
  /-- DELAY_TIME_OFF (D19), a record offset. -/
  delayTimeOff : Nat
  /-- EQ_BANDS_OFF (D20), a record offset. -/
  eqBandsOff : Nat
  /-- What FIELD_TABLE(k) holds beside the entries R178 settles (D21). -/
  extraFields : List (ModuleKind × FieldEntry)
  /-- NAME_REPLACEMENT (D22). -/
  nameReplacement : Byte
  /-- ENABLE_PARAM_INDEX (D31), boundary layer. -/
  enableParamIndex : Byte
  /-- IDENTIFY_REQUEST_PAYLOAD (D32), boundary layer. -/
  identifyRequestPayload : Bytes
  /-- MBF_VERSION (D34), boundary layer: four bytes. -/
  mbfVersion : Bytes
deriving DecidableEq, Repr

/-- The constraints R273 and R178 put on provisioned parameters. -/
def Params.valid (c : Params) : Bool :=
  decide (3 ≤ c.delayTimeOff) && decide (c.delayTimeOff ≤ 15) &&
  decide (3 ≤ c.eqBandsOff) && decide (c.eqBandsOff ≤ 11) &&
  c.extraFields.all (fun x => x.2.fits x.1) && c.mbfVersion.length == 4

namespace Config

/-- FREE VALUE (R93, R94, D3): the vendor's step function, before the one value the reference vector fixes is put in
(`Machine.vendorStep`). Entry 6. -/
opaque crcStepFree : Word → Byte → Word

/-- FREE VALUE (R76, D19): DELAY_TIME_OFF less 3, so that the offset is in 3 to 15. Entry 8. -/
opaque delayTimeSlack : Fin 13

/-- FREE VALUE (R77, D20): EQ_BANDS_OFF less 3, so that the offset is in 3 to 11. Entry 8. -/
opaque eqBandsSlack : Fin 9

/-- FREE VALUE (R78, R178, D21): candidates for the open entries of the field tables. Entry 8. -/
opaque extraFieldsFree : List (ModuleKind × FieldEntry)

/-- FREE VALUE (R211, D31): ENABLE_PARAM_INDEX. Entry 8. -/
opaque enableParamIndexFree : Byte

/-- FREE VALUE (R236, D34): the four bytes of MBF_VERSION, one for each index. Entry 8. -/
opaque mbfVersionFree : Fin 4 → Byte

/-- The parameters as provisioned at reset (R35, R273): the spec's defaults where it gives one (500, 0x3F, empty), a
free value that meets R273's constraints where it gives none. -/
def provisioned : Params where
  crcStep := .vendor
  sizeFieldValue := 500
  delayTimeOff := 3 + delayTimeSlack.val
  eqBandsOff := 3 + eqBandsSlack.val
  extraFields := extraFieldsFree.filter (fun x => x.2.fits x.1)
  nameReplacement := 0x3F
  enableParamIndex := enableParamIndexFree
  identifyRequestPayload := []
  mbfVersion := [mbfVersionFree 0, mbfVersionFree 1, mbfVersionFree 2, mbfVersionFree 3]

/-- The test configuration TC of 95_test_vectors.md, section 0; what TC does not name is empty or zero. -/
def testConfiguration : Params where
  crcStep := .testFixture
  sizeFieldValue := 500
  delayTimeOff := 4
  eqBandsOff := 3
  extraFields := []
  nameReplacement := 0x3F
  enableParamIndex := 0
  identifyRequestPayload := []
  mbfVersion := [0, 0, 0, 0]

end Config

end Sys2Proof
end

