-- ==== Sys2Proof/Syntax.lean ====
section
/-! DEFINITION. The typed values at the operation port (R16, R27 to R31) and the instructions: one constructor per row of
spec/opcode_table.json, each with the operands R80 (30_encoding.md) gives the operation, or, for a command identifier
(R190 to R205), the use the boundary layer makes of it. -/

namespace Sys2Proof

/-- A frame, `{command, payload}` (R16, R28). -/
structure Frame where
  command : Byte
  payload : Bytes
deriving DecidableEq, Repr

/-- A typed module record `Module(k)` (R30): the common header's three fields (R29) and the raw body. The kind is known
from where the value stands (R155). -/
structure EffectModule where
  header : Byte
  enabled : Bool
  type : Byte
  body : Bytes
deriving DecidableEq, Repr

/-- A typed preset (R31). `name` may hold any bytes: PST.ENC repairs a name that is not valid (R32, R142). -/
structure Preset where
  effectOrder : Bytes
  name : Bytes
  fx : EffectModule
  od : EffectModule
  amp : EffectModule
  cab : EffectModule
  ns : EffectModule
  eq : EffectModule
  mod : EffectModule
  delay : EffectModule
  reverb : EffectModule
deriving DecidableEq, Repr

/-- What the boundary layer does with one command identifier (R190): build the request of its own builder, build a frame
with any payload through the generic builder (R215), or parse a response frame's payload (R217). Entry 14. -/
inductive CmdUse (α : Type) where
  | request (args : α)
  | generic (payload : Bytes)
  | response (payload : Bytes)
deriving DecidableEq, Repr

/-- Arguments of the per-module parameter command: `build_effect_param` (R210) or `build_toggle_effect` (R211). -/
inductive ParamArgs where
  | set (index value : Int)
  | toggle (enabled : Bool)
deriving DecidableEq, Repr

/-- Arguments of `build_store_preset` (R209). -/
structure StoreArgs where
  slot : Int
  record : Bytes
deriving DecidableEq, Repr

/-- The instructions: 27 operations (R79) and 15 command identifiers (R191 to R205). -/
inductive Instr where
  /-- CKSUM (R92). -/
  | cksum (data : Bytes)
  /-- FRM.BUILD (R101). -/
  | frmBuild (command : Byte) (payload : Bytes)
  /-- FRM.BUILDC (R105). -/
  | frmBuildc (command : Byte) (payload : Bytes)
  /-- FRM.PARSE (R116). -/
  | frmParse (report : Bytes)
  /-- FRM.PARSEC (R125). -/
  | frmParsec (reports : List Bytes)
  /-- PST.NEW (R136). -/
  | pstNew
  /-- PST.ENC (R137). -/
  | pstEnc (p : Preset)
  /-- PST.DEC (R144). -/
  | pstDec (buf : Bytes)
  /-- PST.SETP (R147). -/
  | pstSetp (p : Preset) (k : ModuleKind) (field : String) (value : Int)
  /-- MOD.ENC.fx (R159). -/
  | modEncFx (m : EffectModule)
  /-- MOD.ENC.od (R160). -/
  | modEncOd (m : EffectModule)
  /-- MOD.ENC.amp (R161). -/
  | modEncAmp (m : EffectModule)
  /-- MOD.ENC.cab (R162). -/
  | modEncCab (m : EffectModule)
  /-- MOD.ENC.ns (R163). -/
  | modEncNs (m : EffectModule)
  /-- MOD.ENC.eq (R164). -/
  | modEncEq (m : EffectModule)
  /-- MOD.ENC.mod (R165). -/
  | modEncMod (m : EffectModule)
  /-- MOD.ENC.delay (R166). -/
  | modEncDelay (m : EffectModule)
  /-- MOD.ENC.reverb (R167). -/
  | modEncReverb (m : EffectModule)
  /-- MOD.DEC.fx (R168). -/
  | modDecFx (buf : Bytes)
  /-- MOD.DEC.od (R169). -/
  | modDecOd (buf : Bytes)
  /-- MOD.DEC.amp (R170). -/
  | modDecAmp (buf : Bytes)
  /-- MOD.DEC.cab (R171). -/
  | modDecCab (buf : Bytes)
  /-- MOD.DEC.ns (R172). -/
  | modDecNs (buf : Bytes)
  /-- MOD.DEC.eq (R173). -/
  | modDecEq (buf : Bytes)
  /-- MOD.DEC.mod (R174). -/
  | modDecMod (buf : Bytes)
  /-- MOD.DEC.delay (R175). -/
  | modDecDelay (buf : Bytes)
  /-- MOD.DEC.reverb (R179). -/
  | modDecReverb (buf : Bytes)
  /-- CMD.Identify, 0x10 (R191). -/
  | cmdIdentify (u : CmdUse Unit)
  /-- CMD.Preset, 0x83 (R192): the slot to read. -/
  | cmdPreset (u : CmdUse Int)
  /-- CMD.FX, 0x90 (R193). -/
  | cmdFx (u : CmdUse ParamArgs)
  /-- CMD.DS_OD, 0x91 (R194). -/
  | cmdOd (u : CmdUse ParamArgs)
  /-- CMD.AMP, 0x93 (R195). -/
  | cmdAmp (u : CmdUse ParamArgs)
  /-- CMD.CAB, 0x94 (R196). -/
  | cmdCab (u : CmdUse ParamArgs)
  /-- CMD.NS-Gate, 0x95 (R197). -/
  | cmdNs (u : CmdUse ParamArgs)
  /-- CMD.EQ, 0x96 (R198). -/
  | cmdEq (u : CmdUse ParamArgs)
  /-- CMD.MOD, 0x97 (R199). -/
  | cmdMod (u : CmdUse ParamArgs)
  /-- CMD.DELAY, 0x98 (R200). -/
  | cmdDelay (u : CmdUse ParamArgs)
  /-- CMD.REVERB, 0x99 (R201). -/
  | cmdReverb (u : CmdUse ParamArgs)
  /-- CMD.System, 0xA1 (R202): the settings blob. -/
  | cmdSystem (u : CmdUse Bytes)
  /-- CMD.Volume, 0xA2 (R203): the volume. -/
  | cmdVolume (u : CmdUse Int)
  /-- CMD.ActivePatch, 0xA6 (R204): the slot to select. -/
  | cmdActivePatch (u : CmdUse Int)
  /-- CMD.StorePatch, 0xA8 (R205). -/
  | cmdStorePatch (u : CmdUse StoreArgs)
deriving DecidableEq, Repr

end Sys2Proof
end

