-- ==== Sys2Proof/Machine/Bytes.lean ====
section
/-! DEFINITION. The byte-sequence primitives of R11 to R14 (00_scope.md): halves, slices, padding, two-byte fields in both
orders, and the little-endian MemRead and MemWrite on a buffer. -/

namespace Sys2Proof.Machine

/-- lo8(v) = v[7:0] (R11). -/
def lo8 (v : Word) : Byte := v.setWidth 8

/-- hi8(v) = v[15:8] (R11). -/
def hi8 (v : Word) : Byte := (v >>> 8).setWidth 8

/-- The u16 with the given low and high byte, `lo | (hi << 8)` (R13). -/
def word16 (lo hi : Byte) : Word := lo.setWidth 16 ||| (hi.setWidth 16 <<< 8)

/-- B[i] (R12). It is read only where i is inside B, or where zero extension gives the byte 0x00 (R51). -/
def byteAt (B : Bytes) (i : Nat) : Byte := B.getD i 0

/-- The half-open slice B[a .. b) (R12). -/
def slice (B : Bytes) (a b : Nat) : Bytes := (B.drop a).take (b - a)

/-- zeros(n) (R12). -/
def zeros (n : Nat) : Bytes := List.replicate n 0

/-- fit(B, n) (R12): the first n bytes of B, or all of B extended with zero bytes to n. -/
def fit (B : Bytes) (n : Nat) : Bytes := B.take n ++ zeros (n - B.length)

/-- le16(B, i) (R13). -/
def le16 (B : Bytes) (i : Nat) : Word := word16 (byteAt B i) (byteAt B (i + 1))

/-- put_le16(v) (R13). -/
def putLe16 (v : Word) : Bytes := [lo8 v, hi8 v]

/-- put_be16(v) (R13). -/
def putBe16 (v : Word) : Bytes := [hi8 v, lo8 v]

/-- MemRead(B, off, n) (R14): n bytes from offset off as a little-endian unsigned integer. -/
def memRead (B : Bytes) (off : Nat) : Nat → Nat
  | 0 => 0
  | n + 1 => (byteAt B off).toNat + 256 * memRead B (off + 1) n

/-- MemWrite(B, off, n, v) (R14): the low n bytes of v, least significant first, at offset off. -/
def memWrite (B : Bytes) (off : Nat) : Nat → Nat → Bytes
  | 0, _ => B
  | n + 1, v => memWrite (B.set off (BitVec.ofNat 8 v)) (off + 1) n (v / 256)

/-- The byte of an integer that a range check has found to be in 0 to 255 (R206). -/
def narrow (v : Int) : Byte := BitVec.ofNat 8 v.toNat

/-- The bytes of a null-padded text field: those before the first 0x00 (R143, R218, R237). -/
def untilNull (f : Bytes) : Bytes := f.takeWhile (fun b => b != 0)

end Sys2Proof.Machine
end

