-- ==== Sys2Proof/Machine/Operands.lean ====
section
/-! DEFINITION. The typed operands: the empty values (R136), access to one module of a preset, the field tables (R178), the
two typed views of a module's body (R176, R177), and the text-field codec (R142, R143). -/

namespace Sys2Proof.Machine

/-- The all-zero module of kind k (R136). -/
def emptyModule (k : ModuleKind) : EffectModule where
  header := 0
  enabled := false
  type := 0
  body := zeros k.bodyLen

/-- The empty preset (R136): every field of the typed value zero. -/
def emptyPreset : Preset where
  effectOrder := zeros Config.effectOrderLen
  name := []
  fx := emptyModule .fx
  od := emptyModule .od
  amp := emptyModule .amp
  cab := emptyModule .cab
  ns := emptyModule .ns
  eq := emptyModule .eq
  mod := emptyModule .mod
  delay := emptyModule .delay
  reverb := emptyModule .reverb

/-- p.k: the module of kind k (R31). -/
def presetModule (p : Preset) : ModuleKind → EffectModule
  | .fx => p.fx
  | .od => p.od
  | .amp => p.amp
  | .cab => p.cab
  | .ns => p.ns
  | .eq => p.eq
  | .mod => p.mod
  | .delay => p.delay
  | .reverb => p.reverb

/-- p with module k replaced (R147). -/
def presetWithModule (p : Preset) (k : ModuleKind) (m : EffectModule) : Preset :=
  match k with
  | .fx => { p with fx := m }
  | .od => { p with od := m }
  | .amp => { p with amp := m }
  | .cab => { p with cab := m }
  | .ns => { p with ns := m }
  | .eq => { p with eq := m }
  | .mod => { p with mod := m }
  | .delay => { p with delay := m }
  | .reverb => { p with reverb := m }

/-- The entries of FIELD_TABLE(k) the source settles (R178): the header's three for every kind, time_ms for delay, the
twelve bands for eq. -/
def settledFields (c : Params) (k : ModuleKind) : List FieldEntry :=
  [⟨"header", 0, 1⟩, ⟨"enabled", 1, 1⟩, ⟨"type", 2, 1⟩] ++
  match k with
  | .delay => [⟨"time_ms", c.delayTimeOff, 2⟩]
  | .eq =>
    [⟨"band0", c.eqBandsOff, 1⟩, ⟨"band1", c.eqBandsOff + 1, 1⟩, ⟨"band2", c.eqBandsOff + 2, 1⟩,
     ⟨"band3", c.eqBandsOff + 3, 1⟩, ⟨"band4", c.eqBandsOff + 4, 1⟩, ⟨"band5", c.eqBandsOff + 5, 1⟩,
     ⟨"band6", c.eqBandsOff + 6, 1⟩, ⟨"band7", c.eqBandsOff + 7, 1⟩, ⟨"band8", c.eqBandsOff + 8, 1⟩,
     ⟨"band9", c.eqBandsOff + 9, 1⟩, ⟨"band10", c.eqBandsOff + 10, 1⟩, ⟨"band11", c.eqBandsOff + 11, 1⟩]
  | _ => []

/-- FIELD_TABLE(k) (R9, R178): the settled entries, then those the parameters add for the kind. Entry 10. -/
def fieldTable (c : Params) (k : ModuleKind) : List FieldEntry :=
  settledFields c k ++ (c.extraFields.filter (fun x => x.1 == k)).map (fun x => x.2)

/-- The entry of FIELD_TABLE(k) with a name (R147). -/
def findField (c : Params) (k : ModuleKind) (field : String) : Option FieldEntry :=
  (fieldTable c k).find? (fun e => e.name == field)

/-- delay_time(m) (R176), with T = DELAY_TIME_OFF. -/
def delayTime (c : Params) (m : EffectModule) : Word := le16 m.body (c.delayTimeOff - 3)

/-- delay_set_time(m, v) (R176). -/
def delaySetTime (c : Params) (m : EffectModule) (v : Word) : EffectModule :=
  { m with body := (m.body.set (c.delayTimeOff - 3) (lo8 v)).set (c.delayTimeOff - 2) (hi8 v) }

/-- eq_bands_a(m) (R177), with E = EQ_BANDS_OFF. -/
def eqBandsA (c : Params) (m : EffectModule) : Bytes := slice m.body (c.eqBandsOff - 3) (c.eqBandsOff + 3)

/-- eq_bands_b(m) (R177). -/
def eqBandsB (c : Params) (m : EffectModule) : Bytes := slice m.body (c.eqBandsOff + 3) (c.eqBandsOff + 9)

/-- eq_set_bands(m, a, b) (R177), for a and b of six bytes each. -/
def eqSetBands (c : Params) (m : EffectModule) (a b : Bytes) : EffectModule :=
  { m with body := m.body.take (c.eqBandsOff - 3) ++ (a ++ b) ++ m.body.drop (c.eqBandsOff + 9) }

/-- name_enc with field length n (R142, R235): bytes above 0x7F replaced, then cut or null-padded to n bytes. -/
def nameEnc (c : Params) (n : Nat) (s : Bytes) : Bytes :=
  fit (s.map (fun b => if b.toNat ≤ 0x7F then b else c.nameReplacement)) n

/-- name_dec(f) (R143). -/
def nameDec (f : Bytes) : Bytes := untilNull f

end Sys2Proof.Machine
end

