-- ==== Sys2Proof/WellFormed.lean ====
section
/-! DEFINITION. When an operand has the shape its type demands: the fixed lengths of R30 and R31 (10_state.md) and the
payload bound of R28. Everything else an operand can hold is admitted (R256). -/

namespace Sys2Proof

/-- A value of type `Module(k)` (R30): a body of MODULE_SIZE[k] - 3 bytes. -/
def EffectModule.wf (m : EffectModule) (k : ModuleKind) : Bool := m.body.length == k.bodyLen

/-- A value of type `Preset` (R31): ten bytes of effect order, and nine module records of their kinds. A name of any
bytes is admitted, since PST.ENC repairs it (R142); entry 20. -/
def Preset.wf (p : Preset) : Bool :=
  p.effectOrder.length == Config.effectOrderLen &&
  p.fx.wf .fx && p.od.wf .od && p.amp.wf .amp && p.cab.wf .cab && p.ns.wf .ns &&
  p.eq.wf .eq && p.mod.wf .mod && p.delay.wf .delay && p.reverb.wf .reverb

/-- A name without repair (R32): at most 14 bytes, each in 0x01 to 0x7F. -/
def validName (s : Bytes) : Bool :=
  decide (s.length ≤ Config.nameLen) && s.all (fun b => b != 0 && decide (b.toNat ≤ 0x7F))

/-- A valid preset (R32). -/
def Preset.valid (p : Preset) : Bool := p.wf && validName p.name

/-- A frame's payload has at most 65534 bytes (R28). -/
def Frame.wf (f : Frame) : Bool := decide (f.payload.length ≤ Config.maxPayload)

/-- A response use carries the payload of a frame (R217, R28); a request and a generic build take any argument, since
their builders check it (R206, R215). -/
def CmdUse.wf {α : Type} : CmdUse α → Bool
  | .response payload => decide (payload.length ≤ Config.maxPayload)
  | _ => true

/-- The operands of an instruction have the types R80 gives them. -/
def Instr.wf : Instr → Bool
  | .cksum _ => true
  | .frmBuild _ _ => true
  | .frmBuildc _ _ => true
  | .frmParse _ => true
  | .frmParsec _ => true
  | .pstNew => true
  | .pstEnc p => p.wf
  | .pstDec _ => true
  | .pstSetp p _ _ _ => p.wf
  | .modEncFx m => m.wf .fx
  | .modEncOd m => m.wf .od
  | .modEncAmp m => m.wf .amp
  | .modEncCab m => m.wf .cab
  | .modEncNs m => m.wf .ns
  | .modEncEq m => m.wf .eq
  | .modEncMod m => m.wf .mod
  | .modEncDelay m => m.wf .delay
  | .modEncReverb m => m.wf .reverb
  | .modDecFx _ => true
  | .modDecOd _ => true
  | .modDecAmp _ => true
  | .modDecCab _ => true
  | .modDecNs _ => true
  | .modDecEq _ => true
  | .modDecMod _ => true
  | .modDecDelay _ => true
  | .modDecReverb _ => true
  | .cmdIdentify u => u.wf
  | .cmdPreset u => u.wf
  | .cmdFx u => u.wf
  | .cmdOd u => u.wf
  | .cmdAmp u => u.wf
  | .cmdCab u => u.wf
  | .cmdNs u => u.wf
  | .cmdEq u => u.wf
  | .cmdMod u => u.wf
  | .cmdDelay u => u.wf
  | .cmdReverb u => u.wf
  | .cmdSystem u => u.wf
  | .cmdVolume u => u.wf
  | .cmdActivePatch u => u.wf
  | .cmdStorePatch u => u.wf

end Sys2Proof
end

