-- ==== Sys2Proof/Decode.lean ====
section
/-! DEFINITION. The port's transactions, their decoding and their encoding. A transaction is an 8-bit code with the
operand values beside it (R79, R80, R85 of 30_encoding.md, 95_test_vectors.md section 3). The code is an op-select code
(table format OP) or a command identifier (table format CMD, R190): the two code spaces overlap at 0x10, so a
transaction says which it is; entry 11. -/

namespace Sys2Proof

/-- The two code spaces of spec/opcode_table.json, its `format` column. -/
inductive CodeSpace where
  | op
  | cmd
deriving DecidableEq, Repr

/-- The operand shapes of R80, and those of the command layer's builders and parser (R206 to R217). -/
inductive Operands where
  | none
  | bytes (b : Bytes)
  | frame (command : Byte) (payload : Bytes)
  | reports (rs : List Bytes)
  | preset (p : Preset)
  | setParam (p : Preset) (k : ModuleKind) (field : String) (value : Int)
  | effect (m : EffectModule)
  | query
  | number (n : Int)
  | param (index value : Int)
  | toggle (enabled : Bool)
  | blob (b : Bytes)
  | store (slot : Int) (record : Bytes)
  | generic (payload : Bytes)
  | response (payload : Bytes)
deriving DecidableEq, Repr

/-- One transaction at the port. -/
structure Txn where
  space : CodeSpace
  code : Byte
  operands : Operands
deriving DecidableEq, Repr

/-- Why a transaction decodes to no instruction. -/
inductive DecodeError where
  /-- An op-select code R79 does not assign (R81). -/
  | noSuchOperation (code : Byte)
  /-- A command identifier outside the fifteen the source lists (R190). -/
  | unknownCommand (id : Byte)
  /-- The operand values are not of the types R80 gives the operation; entry 16. -/
  | operandShape
deriving DecidableEq, Repr

/-- An operation with no operand. -/
def takeNone (x : Operands) (i : Instr) : Except DecodeError Instr :=
  match x with
  | .none => .ok i
  | _ => .error .operandShape

/-- An operation with one byte sequence. -/
def takeBytes (x : Operands) (f : Bytes → Instr) : Except DecodeError Instr :=
  match x with
  | .bytes b => .ok (f b)
  | _ => .error .operandShape

/-- An operation with a command byte and a payload. -/
def takeFrame (x : Operands) (f : Byte → Bytes → Instr) : Except DecodeError Instr :=
  match x with
  | .frame c P => .ok (f c P)
  | _ => .error .operandShape

/-- An operation with an ordered list of reports. -/
def takeReports (x : Operands) (f : List Bytes → Instr) : Except DecodeError Instr :=
  match x with
  | .reports rs => .ok (f rs)
  | _ => .error .operandShape

/-- An operation with a preset of the type's shape (R31). -/
def takePreset (x : Operands) (f : Preset → Instr) : Except DecodeError Instr :=
  match x with
  | .preset p => if p.wf then .ok (f p) else .error .operandShape
  | _ => .error .operandShape

/-- PST.SETP's four operands (R147). -/
def takeSetParam (x : Operands) (f : Preset → ModuleKind → String → Int → Instr) : Except DecodeError Instr :=
  match x with
  | .setParam p k field value => if p.wf then .ok (f p k field value) else .error .operandShape
  | _ => .error .operandShape

/-- An operation with a module record value of kind k (R30). -/
def takeModule (k : ModuleKind) (x : Operands) (f : EffectModule → Instr) : Except DecodeError Instr :=
  match x with
  | .effect m => if m.wf k then .ok (f m) else .error .operandShape
  | _ => .error .operandShape

/-- The argument of a query request. -/
def queryArgs : Operands → Option Unit
  | .query => some ()
  | _ => none

/-- The argument of a slot or volume request. -/
def numberArgs : Operands → Option Int
  | .number n => some n
  | _ => none

/-- The arguments of a per-module request. -/
def paramArgs : Operands → Option ParamArgs
  | .param i v => some (.set i v)
  | .toggle b => some (.toggle b)
  | _ => none

/-- The argument of a system request. -/
def blobArgs : Operands → Option Bytes
  | .blob b => some b
  | _ => none

/-- The arguments of a store request. -/
def storeArgs : Operands → Option StoreArgs
  | .store slot record => some ⟨slot, record⟩
  | _ => none

/-- The use of a command identifier: a generic payload, a frame's payload, or the arguments of its own builder. -/
def takeUse {α : Type} (args : Operands → Option α) (x : Operands) (f : CmdUse α → Instr) :
    Except DecodeError Instr :=
  match x with
  | .generic P => .ok (f (.generic P))
  | .response P => if P.length ≤ Config.maxPayload then .ok (f (.response P)) else .error .operandShape
  | x =>
    match args x with
    | some a => .ok (f (.request a))
    | none => .error .operandShape

/-- The op-select map (R79); every other code is refused (R81). -/
def decodeOp (code : Byte) (x : Operands) : Except DecodeError Instr :=
  match code with
  | 0x00#8 => takeBytes x .cksum
  | 0x10#8 => takeFrame x .frmBuild
  | 0x11#8 => takeFrame x .frmBuildc
  | 0x12#8 => takeBytes x .frmParse
  | 0x13#8 => takeReports x .frmParsec
  | 0x20#8 => takeNone x .pstNew
  | 0x21#8 => takePreset x .pstEnc
  | 0x22#8 => takeBytes x .pstDec
  | 0x23#8 => takeSetParam x .pstSetp
  | 0x30#8 => takeModule .fx x .modEncFx
  | 0x31#8 => takeModule .od x .modEncOd
  | 0x32#8 => takeModule .amp x .modEncAmp
  | 0x33#8 => takeModule .cab x .modEncCab
  | 0x34#8 => takeModule .ns x .modEncNs
  | 0x35#8 => takeModule .eq x .modEncEq
  | 0x36#8 => takeModule .mod x .modEncMod
  | 0x37#8 => takeModule .delay x .modEncDelay
  | 0x38#8 => takeModule .reverb x .modEncReverb
  | 0x40#8 => takeBytes x .modDecFx
  | 0x41#8 => takeBytes x .modDecOd
  | 0x42#8 => takeBytes x .modDecAmp
  | 0x43#8 => takeBytes x .modDecCab
  | 0x44#8 => takeBytes x .modDecNs
  | 0x45#8 => takeBytes x .modDecEq
  | 0x46#8 => takeBytes x .modDecMod
  | 0x47#8 => takeBytes x .modDecDelay
  | 0x48#8 => takeBytes x .modDecReverb
  | code => .error (.noSuchOperation code)

/-- The command enumeration (R190 to R205): the fifteen identifiers the source lists. -/
def decodeCmd (id : Byte) (x : Operands) : Except DecodeError Instr :=
  match id with
  | 0x10#8 => takeUse queryArgs x .cmdIdentify
  | 0x83#8 => takeUse numberArgs x .cmdPreset
  | 0x90#8 => takeUse paramArgs x .cmdFx
  | 0x91#8 => takeUse paramArgs x .cmdOd
  | 0x93#8 => takeUse paramArgs x .cmdAmp
  | 0x94#8 => takeUse paramArgs x .cmdCab
  | 0x95#8 => takeUse paramArgs x .cmdNs
  | 0x96#8 => takeUse paramArgs x .cmdEq
  | 0x97#8 => takeUse paramArgs x .cmdMod
  | 0x98#8 => takeUse paramArgs x .cmdDelay
  | 0x99#8 => takeUse paramArgs x .cmdReverb
  | 0xA1#8 => takeUse blobArgs x .cmdSystem
  | 0xA2#8 => takeUse numberArgs x .cmdVolume
  | 0xA6#8 => takeUse numberArgs x .cmdActivePatch
  | 0xA8#8 => takeUse storeArgs x .cmdStorePatch
  | id => .error (.unknownCommand id)

/-- The decoder: total, every transaction to an instruction or a named error. -/
def decode (t : Txn) : Except DecodeError Instr :=
  match t.space with
  | .op => decodeOp t.code t.operands
  | .cmd => decodeCmd t.code t.operands

/-- The operand values of a command use, given how its own builder's arguments are written. -/
def useOperands {α : Type} (request : α → Operands) : CmdUse α → Operands
  | .request a => request a
  | .generic P => .generic P
  | .response P => .response P

/-- The operand values of a per-module request. -/
def paramOperands : ParamArgs → Operands
  | .set i v => .param i v
  | .toggle b => .toggle b

/-- The encoder (R79, R80, R190): the code of each instruction and its operand values. -/
def encode : Instr → Txn
  | .cksum data => ⟨.op, 0x00, .bytes data⟩
  | .frmBuild c P => ⟨.op, 0x10, .frame c P⟩
  | .frmBuildc c P => ⟨.op, 0x11, .frame c P⟩
  | .frmParse r => ⟨.op, 0x12, .bytes r⟩
  | .frmParsec rs => ⟨.op, 0x13, .reports rs⟩
  | .pstNew => ⟨.op, 0x20, .none⟩
  | .pstEnc p => ⟨.op, 0x21, .preset p⟩
  | .pstDec buf => ⟨.op, 0x22, .bytes buf⟩
  | .pstSetp p k field value => ⟨.op, 0x23, .setParam p k field value⟩
  | .modEncFx m => ⟨.op, 0x30, .effect m⟩
  | .modEncOd m => ⟨.op, 0x31, .effect m⟩
  | .modEncAmp m => ⟨.op, 0x32, .effect m⟩
  | .modEncCab m => ⟨.op, 0x33, .effect m⟩
  | .modEncNs m => ⟨.op, 0x34, .effect m⟩
  | .modEncEq m => ⟨.op, 0x35, .effect m⟩
  | .modEncMod m => ⟨.op, 0x36, .effect m⟩
  | .modEncDelay m => ⟨.op, 0x37, .effect m⟩
  | .modEncReverb m => ⟨.op, 0x38, .effect m⟩
  | .modDecFx b => ⟨.op, 0x40, .bytes b⟩
  | .modDecOd b => ⟨.op, 0x41, .bytes b⟩
  | .modDecAmp b => ⟨.op, 0x42, .bytes b⟩
  | .modDecCab b => ⟨.op, 0x43, .bytes b⟩
  | .modDecNs b => ⟨.op, 0x44, .bytes b⟩
  | .modDecEq b => ⟨.op, 0x45, .bytes b⟩
  | .modDecMod b => ⟨.op, 0x46, .bytes b⟩
  | .modDecDelay b => ⟨.op, 0x47, .bytes b⟩
  | .modDecReverb b => ⟨.op, 0x48, .bytes b⟩
  | .cmdIdentify u => ⟨.cmd, 0x10, useOperands (fun _ => .query) u⟩
  | .cmdPreset u => ⟨.cmd, 0x83, useOperands .number u⟩
  | .cmdFx u => ⟨.cmd, 0x90, useOperands paramOperands u⟩
  | .cmdOd u => ⟨.cmd, 0x91, useOperands paramOperands u⟩
  | .cmdAmp u => ⟨.cmd, 0x93, useOperands paramOperands u⟩
  | .cmdCab u => ⟨.cmd, 0x94, useOperands paramOperands u⟩
  | .cmdNs u => ⟨.cmd, 0x95, useOperands paramOperands u⟩
  | .cmdEq u => ⟨.cmd, 0x96, useOperands paramOperands u⟩
  | .cmdMod u => ⟨.cmd, 0x97, useOperands paramOperands u⟩
  | .cmdDelay u => ⟨.cmd, 0x98, useOperands paramOperands u⟩
  | .cmdReverb u => ⟨.cmd, 0x99, useOperands paramOperands u⟩
  | .cmdSystem u => ⟨.cmd, 0xA1, useOperands .blob u⟩
  | .cmdVolume u => ⟨.cmd, 0xA2, useOperands .number u⟩
  | .cmdActivePatch u => ⟨.cmd, 0xA6, useOperands .number u⟩
  | .cmdStorePatch u => ⟨.cmd, 0xA8, useOperands (fun a => .store a.slot a.record) u⟩

/-- All-zero operands of an op-select code's types (R80): empty sequences, the empty preset and modules, kind number 0,
its first field and the value 0. Entry 12. -/
def zeroOpOperands (code : Byte) : Option Operands :=
  match code with
  | 0x00#8 | 0x12#8 | 0x22#8 => some (.bytes [])
  | 0x10#8 | 0x11#8 => some (.frame 0 [])
  | 0x13#8 => some (.reports [])
  | 0x20#8 => some .none
  | 0x21#8 => some (.preset Machine.emptyPreset)
  | 0x23#8 => some (.setParam Machine.emptyPreset .fx "header" 0)
  | 0x30#8 => some (.effect (Machine.emptyModule .fx))
  | 0x31#8 => some (.effect (Machine.emptyModule .od))
  | 0x32#8 => some (.effect (Machine.emptyModule .amp))
  | 0x33#8 => some (.effect (Machine.emptyModule .cab))
  | 0x34#8 => some (.effect (Machine.emptyModule .ns))
  | 0x35#8 => some (.effect (Machine.emptyModule .eq))
  | 0x36#8 => some (.effect (Machine.emptyModule .mod))
  | 0x37#8 => some (.effect (Machine.emptyModule .delay))
  | 0x38#8 => some (.effect (Machine.emptyModule .reverb))
  | 0x40#8 | 0x41#8 | 0x42#8 | 0x43#8 | 0x44#8 | 0x45#8 | 0x46#8 | 0x47#8 | 0x48#8 => some (.bytes [])
  | _ => none

/-- All-zero arguments of a command's own builder: slot, volume, index and value 0, an empty blob, a record of 512 zero
bytes. Entry 12. -/
def zeroCmdOperands (id : Byte) : Operands :=
  match id with
  | 0x10#8 => .query
  | 0x83#8 | 0xA2#8 | 0xA6#8 => .number 0
  | 0xA1#8 => .blob []
  | 0xA8#8 => .store 0 (Machine.zeros Config.presetSize)
  | _ => .param 0 0

/-- The transaction of a word of spec/opcode_table.json: the code with all-zero operands. A code that is an op-select is
one; any other known code is a command identifier; 0x10, which is both, is the op-select. Entry 11. -/
def tableTxn (w : Nat) : Txn :=
  let code := BitVec.ofNat 8 w
  match zeroOpOperands code with
  | some x => ⟨.op, code, x⟩
  | none =>
    match decodeCmd code (zeroCmdOperands code) with
    | .ok _ => ⟨.cmd, code, zeroCmdOperands code⟩
    | .error _ => ⟨.op, code, .none⟩

/-- The instruction the decoder reads from a table word of `nbits` bits. -/
def decodeTableWord (_nbits w : Nat) : Option Instr :=
  match decode (tableTxn w) with
  | .ok i => some i
  | .error _ => none

end Sys2Proof
end

