-- ==== Sys2Proof/Machine/State.lean ====
section
/-! DEFINITION. The outcomes an operation returns (R245 to R248 of 60_exceptions.md), the host's calls, the state of the
machine and its value at reset (R35 of 10_state.md). State is plain data. -/

namespace Sys2Proof.Machine

/-- The named reasons for NoFrame (R248): diagnostic only, no rule depends on them. -/
inductive NoFrameReason where
  | shortReport
  | shortDeclaredLen
  | badPreamble
  | zeroBody
  | truncated
  | badChecksum
  | emptyReport
  | chunkOverrun
  | shortMessage
deriving DecidableEq, Repr

/-- What the response parser returns (R218 to R225). -/
inductive Response where
  | identify (firmware name : Bytes)
  | identifyUnknown (raw : Bytes)
  | presetResp (slot : Byte) (data : Bytes)
  | activePatch (slot : Byte)
  | volume (value : Byte)
  | system (raw : Bytes)
  | untyped (f : Frame)
deriving DecidableEq, Repr

/-- What import_mbf returns (R237). -/
structure Backup where
  manufacturer : Bytes
  model : Bytes
  version : Bytes
  presets : List Preset
deriving DecidableEq, Repr

/-- What parse_gnr_header returns (R240). -/
structure GnrHeader where
  infoSize : Nat
  info : Bytes
  dataOffset : Nat
deriving DecidableEq, Repr

/-- The result value of an `Ok` outcome (R80, and R217, R230 for the boundary layer). -/
inductive Result where
  /-- CKSUM's u16. -/
  | word (v : Word)
  /-- FRM.BUILD's report. -/
  | report (r : Bytes)
  /-- FRM.BUILDC's ordered list of reports. -/
  | reports (rs : List Bytes)
  /-- A parse operation's frame. -/
  | frame (f : Frame)
  /-- PST.NEW's, PST.DEC's, PST.SETP's or import_mo's preset. -/
  | preset (p : Preset)
  /-- PST.ENC's 512-byte record. -/
  | record (b : Bytes)
  /-- MOD.DEC.k's module. -/
  | effect (k : ModuleKind) (m : EffectModule)
  /-- MOD.ENC.k's record. -/
  | effectRecord (k : ModuleKind) (b : Bytes)
  /-- The response parser's typed response. -/
  | response (r : Response)
  /-- export_mo's file. -/
  | moFile (b : Bytes)
  /-- export_mbf's file. -/
  | mbfFile (b : Bytes)
  /-- import_mbf's backup. -/
  | backup (b : Backup)
  /-- parse_gnr_header's header. -/
  | gnr (h : GnrHeader)
deriving DecidableEq, Repr

/-- The errors of the boundary layer (R246). -/
inductive BoundaryError where
  | slotRange (slot : Int)
  | storeSize (len : Nat)
  | unknownModule (name : String)
  | valueRange (value : Int)
  | volumeRange (value : Int)
  /-- UnknownCommand's identifier is an integer: R215 gives it no type, and a builder's arguments are integers (R206)
  although an identifier is a byte (R190). DESIGN CHOICE, entry 25. -/
  | unknownCommand (id : Int)
  | fileSize (required actual : Nat)
  | badMagic
deriving DecidableEq, Repr

/-- The outcome of an operation or boundary call: exactly one, a returned value (R245, R247). -/
inductive Answer where
  /-- Ok, with the result. -/
  | ok (r : Result)
  /-- A parse found no valid frame; it carries no reason (R115). -/
  | noFrame
  /-- FRM.BUILD refuses the payload (R102), recording its length. -/
  | frameTooLong (len : Nat)
  /-- FRM.BUILDC refuses the payload (R108), recording its length. -/
  | payloadTooLong (len : Nat)
  /-- PST.SETP finds no such field (R147), recording kind and name. -/
  | unknownField (k : ModuleKind) (field : String)
  /-- PST.SETP refuses the value (R148), recording field, allowed range and value. -/
  | valueRange (field : String) (lo hi value : Int)
  /-- A boundary call's error (R246). -/
  | boundary (e : BoundaryError)
deriving DecidableEq, Repr

/-- A call the host issues: a transaction at the port, or a boundary function that has no code of its own (R210 and R211
by module name, R215 by any integer, R230 to R243). Entries 19 and 25. -/
inductive Call where
  | txn (t : Txn)
  | effectParam (name : String) (index value : Int)
  | toggleEffect (name : String) (enabled : Bool)
  | buildCommand (id : Int) (payload : Bytes)
  | exportMo (p : Preset)
  | importMo (file : Bytes)
  | exportMbf (manufacturer model : Bytes) (presets : List Preset)
  | importMbf (file : Bytes)
  | parseGnrHeader (file : Bytes)
deriving DecidableEq, Repr

/-- The faults: there are none. No operation traps, hangs or is stuck (R252, R256), so the type is empty. Entry 18. -/
inductive Fault : Type
deriving DecidableEq, Repr

/-- The refusals. -/
inductive Refusal where
  /-- An arm of `exec` without a meaning. None is left; safe. -/
  | notModelled (mnemonic : String)
  /-- Raised by `perform` for an op-select code R79 does not assign: it selects no operation (R81). Safe: the spec gives
  such a code no step. Entry 17. -/
  | noSuchOperation (code : Byte)
  /-- Raised by `perform` for operand values that are not of the operation's types, which the port cannot carry (R36,
  R256). Safe: no such call exists. Entry 16. -/
  | operandShape
deriving DecidableEq, Repr

/-- The state (INVENTORY.md, State). -/
structure State where
  /-- The provisioned parameters (R9, R25, R272, R273). -/
  params : Params
  /-- The checksum working register (R24): live only inside one evaluation, so `none` between steps. Entry 4. -/
  crc : Option Word
  /-- The reassembled buffer of FRM.PARSEC (R26): none between steps. Entry 4. -/
  reassembly : Option Bytes
  /-- Ghost (R248): why the last operation answered NoFrame. Entry 5. -/
  reason : Option NoFrameReason
  /-- The calls the host has issued and the block has not performed, in issue order (R54). Entry 1. -/
  pending : List Call
  /-- The outcome the last operation returned (R245). Entry 3. -/
  answer : Option Answer
deriving DecidableEq, Repr

/-- The machine after reset (R35, R270): nothing live, no operation in progress, parameters as provisioned. -/
def State.reset : State where
  params := Config.provisioned
  crc := none
  reassembly := none
  reason := none
  pending := []
  answer := none

end Sys2Proof.Machine
end

