-- ==== Sys2Proof/Machine/Ops.lean ====
section
/-! DEFINITION. The one way an operation ends (R245, R252): it returns its outcome at the port, and nothing of the operation
stays live (R20, R24, R26). The block has no memory, no register file and no exception entry or return (R21, R40, R252,
R253), so no other shared operation on the state exists. -/

namespace Sys2Proof.Machine

/-- What a meaning answers. -/
abbrev Ended := Host.Outcome State Fault Refusal

/-- The state in which an operation has returned `a`: the outcome stands at the port, the working register and the
reassembled buffer have ceased to exist, parameters and pending calls are as they were. -/
def State.done (s : State) (a : Answer) : State :=
  { s with answer := some a, reason := none, crc := none, reassembly := none }

/-- The same for a parse operation: Ok with the frame, or NoFrame with the name of the failed check kept in the ghost
field only (R115, R248). -/
def State.parsed (s : State) (e : Except NoFrameReason Frame) : State :=
  match e with
  | .ok f => s.done (.ok (.frame f))
  | .error r => { s.done .noFrame with reason := some r }

/-- The state with other calls pending: the step has taken the first one (R54). -/
def State.withPending (s : State) (calls : List Call) : State := { s with pending := calls }

/-- An operation that returns `a` (R256: every operation terminates with an outcome). -/
def returns (s : State) (a : Answer) : Ended := .next (s.done a)

/-- A parse operation that ends. -/
def returnsParse (s : State) (e : Except NoFrameReason Frame) : Ended := .next (s.parsed e)

end Sys2Proof.Machine
end

