-- ==== Sys2Proof/Machine/Modules.lean ====
section
/-! DEFINITION. Unit U3, module level (44_module_serializer.md): the encode and decode of the nine module records. -/

namespace Sys2Proof.Machine

/-- mod_enc(k, m) (R156): header, enabled as 0x01 or 0x00 (R75), type, body as held. -/
def modEnc (m : EffectModule) : Bytes :=
  [m.header, if m.enabled then 0x01 else 0x00, m.type] ++ m.body

/-- mod_dec(k, buf) (R157, R158): tolerant; any non-zero enabled byte reads as true. -/
def modDec (k : ModuleKind) (buf : Bytes) : EffectModule :=
  let b := fit buf k.size
  { header := byteAt b 0, enabled := byteAt b 1 != 0, type := byteAt b 2, body := slice b 3 k.size }

/-- The outcome of MOD.ENC.k (R156, R247): always Ok. -/
def encodeModule (k : ModuleKind) (m : EffectModule) (s : State) : Ended :=
  returns s (.ok (.effectRecord k (modEnc m)))

/-- The outcome of MOD.DEC.k (R157, R247): always Ok. -/
def decodeModule (k : ModuleKind) (buf : Bytes) (s : State) : Ended :=
  returns s (.ok (.effect k (modDec k buf)))

/-- MOD.ENC.fx (R159). -/
def execModEncFx (m : EffectModule) (s : State) : Ended := encodeModule .fx m s
/-- MOD.ENC.od (R160). -/
def execModEncOd (m : EffectModule) (s : State) : Ended := encodeModule .od m s
/-- MOD.ENC.amp (R161). -/
def execModEncAmp (m : EffectModule) (s : State) : Ended := encodeModule .amp m s
/-- MOD.ENC.cab (R162). -/
def execModEncCab (m : EffectModule) (s : State) : Ended := encodeModule .cab m s
/-- MOD.ENC.ns (R163). -/
def execModEncNs (m : EffectModule) (s : State) : Ended := encodeModule .ns m s
/-- MOD.ENC.eq (R164). -/
def execModEncEq (m : EffectModule) (s : State) : Ended := encodeModule .eq m s
/-- MOD.ENC.mod (R165). -/
def execModEncMod (m : EffectModule) (s : State) : Ended := encodeModule .mod m s
/-- MOD.ENC.delay (R166). -/
def execModEncDelay (m : EffectModule) (s : State) : Ended := encodeModule .delay m s
/-- MOD.ENC.reverb (R167). -/
def execModEncReverb (m : EffectModule) (s : State) : Ended := encodeModule .reverb m s

/-- MOD.DEC.fx (R168). -/
def execModDecFx (buf : Bytes) (s : State) : Ended := decodeModule .fx buf s
/-- MOD.DEC.od (R169). -/
def execModDecOd (buf : Bytes) (s : State) : Ended := decodeModule .od buf s
/-- MOD.DEC.amp (R170). -/
def execModDecAmp (buf : Bytes) (s : State) : Ended := decodeModule .amp buf s
/-- MOD.DEC.cab (R171). -/
def execModDecCab (buf : Bytes) (s : State) : Ended := decodeModule .cab buf s
/-- MOD.DEC.ns (R172). -/
def execModDecNs (buf : Bytes) (s : State) : Ended := decodeModule .ns buf s
/-- MOD.DEC.eq (R173). -/
def execModDecEq (buf : Bytes) (s : State) : Ended := decodeModule .eq buf s
/-- MOD.DEC.mod (R174). -/
def execModDecMod (buf : Bytes) (s : State) : Ended := decodeModule .mod buf s
/-- MOD.DEC.delay (R175). -/
def execModDecDelay (buf : Bytes) (s : State) : Ended := decodeModule .delay buf s
/-- MOD.DEC.reverb (R179). -/
def execModDecReverb (buf : Bytes) (s : State) : Ended := decodeModule .reverb buf s

end Sys2Proof.Machine
end

