-- ==== Sys2Proof/Machine/Presets.lean ====
section
/-! DEFINITION. Unit U3, preset level (43_preset_serializer.md): PST.NEW, PST.ENC, PST.DEC, PST.SETP. -/

namespace Sys2Proof.Machine

/-- PST.ENC's record (R137 to R140): the fields contiguous in the order of R69, then the zero tail. -/
def presetEncode (c : Params) (p : Preset) : Bytes :=
  p.effectOrder ++ putBe16 c.sizeFieldValue ++ nameEnc c Config.nameLen p.name ++
  modEnc p.fx ++ modEnc p.od ++ modEnc p.amp ++ modEnc p.cab ++ modEnc p.ns ++
  modEnc p.eq ++ modEnc p.mod ++ modEnc p.delay ++ modEnc p.reverb ++ zeros Config.tailLen

/-- The record of kind k inside a 512-byte preset record (R74, R151). -/
def moduleSlice (k : ModuleKind) (b : Bytes) : Bytes := slice b k.offset (k.offset + k.size)

/-- PST.DEC's preset (R144 to R146): zero-extended or cut to 512 bytes, then fields at their offsets; the size field and
the tail are not read (R139, R140). -/
def presetDecode (buf : Bytes) : Preset :=
  let b := fit buf Config.presetSize
  { effectOrder := slice b 0 10
    name := nameDec (slice b 12 26)
    fx := modDec .fx (moduleSlice .fx b)
    od := modDec .od (moduleSlice .od b)
    amp := modDec .amp (moduleSlice .amp b)
    cab := modDec .cab (moduleSlice .cab b)
    ns := modDec .ns (moduleSlice .ns b)
    eq := modDec .eq (moduleSlice .eq b)
    mod := modDec .mod (moduleSlice .mod b)
    delay := modDec .delay (moduleSlice .delay b)
    reverb := modDec .reverb (moduleSlice .reverb b) }

/-- PST.SETP's outcome (R147, R148): the field is looked up before the value is checked (R250). -/
def setParam (c : Params) (p : Preset) (k : ModuleKind) (field : String) (value : Int) : Answer :=
  match findField c k field with
  | none => .unknownField k field
  | some e =>
    if value < 0 ∨ value ≥ 256 ^ e.width then .valueRange field 0 (256 ^ e.width - 1) value
    else
      .ok (.preset (presetWithModule p k
        (modDec k (memWrite (modEnc (presetModule p k)) e.offset e.width value.toNat))))

/-- PST.NEW (R136). -/
def execPstNew (s : State) : Ended := returns s (.ok (.preset emptyPreset))

/-- PST.ENC (R137). -/
def execPstEnc (p : Preset) (s : State) : Ended := returns s (.ok (.record (presetEncode s.params p)))

/-- PST.DEC (R144). -/
def execPstDec (buf : Bytes) (s : State) : Ended := returns s (.ok (.preset (presetDecode buf)))

/-- PST.SETP (R147). -/
def execPstSetp (p : Preset) (k : ModuleKind) (field : String) (value : Int) (s : State) : Ended :=
  returns s (setParam s.params p k field value)

end Sys2Proof.Machine
end

