-- ==== Sys2Proof/Machine/Containers.lean ====
section
/-! DEFINITION. The file containers at the boundary (46_file_containers_boundary.md): .mo, .mbf and the .gnr header, as maps
between byte sequences and values. None has an opcode row; the host calls them (entry 19). -/

namespace Sys2Proof.Machine

/-- export_mo (R231, R232): 512 zero bytes, the record, 1024 zero bytes. -/
def exportMo (c : Params) (p : Preset) : Answer :=
  .ok (.moFile (zeros 0x200 ++ presetEncode c p ++ zeros 0x400))

/-- import_mo (R233). -/
def importMo (F : Bytes) : Answer :=
  if F.length < 0x400 then .boundary (.fileSize 0x400 F.length)
  else .ok (.preset (presetDecode (slice F 0x200 0x400)))

/-- The number of entries of an .mbf file (R234). -/
def mbfEntries : Nat := 199

/-- The length of an .mbf entry (R234). -/
def mbfEntryLen : Nat := 546

/-- The length of the .mbf header (R234). -/
def mbfHeaderLen : Nat := 44

/-- Entry E_i of an .mbf file (R235): the i-th preset, or 512 zero bytes where there is none, then 34 reserved bytes. -/
def mbfEntry (c : Params) (presets : List Preset) (i : Nat) : Bytes :=
  (match presets[i]? with
   | some p => presetEncode c p
   | none => zeros Config.presetSize) ++ zeros 34

/-- The bytes of an .mbf file (R235). -/
def mbfBytes (c : Params) (manufacturer model : Bytes) (presets : List Preset) : Bytes :=
  nameEnc c 8 manufacturer ++ nameEnc c 32 model ++ c.mbfVersion ++
  ((List.range mbfEntries).map (mbfEntry c presets)).flatten

/-- export_mbf (R235). -/
def exportMbf (c : Params) (manufacturer model : Bytes) (presets : List Preset) : Answer :=
  if presets.length > mbfEntries then .boundary (.fileSize mbfEntries presets.length)
  else .ok (.mbfFile (mbfBytes c manufacturer model presets))

/-- The preset of entry i of an .mbf file (R237). -/
def mbfPreset (F : Bytes) (i : Nat) : Preset :=
  presetDecode (slice F (mbfHeaderLen + mbfEntryLen * i) (mbfHeaderLen + mbfEntryLen * i + Config.presetSize))

/-- import_mbf (R237): whole entries only, at most 199, no error on a truncated one. -/
def importMbf (F : Bytes) : Answer :=
  if F.length < mbfHeaderLen then .boundary (.fileSize mbfHeaderLen F.length)
  else
    .ok (.backup
      { manufacturer := untilNull (slice F 0 8)
        model := untilNull (slice F 8 40)
        version := slice F 40 44
        presets := (List.range (min mbfEntries ((F.length - mbfHeaderLen) / mbfEntryLen))).map (mbfPreset F) })

/-- parse_gnr_header (R240 to R242): the length is checked before the magic; only the info slice is clamped. -/
def parseGnrHeader (F : Bytes) : Answer :=
  if F.length < 12 then .boundary (.fileSize 12 F.length)
  else if slice F 0 8 ≠ Config.gnrMagic then .boundary .badMagic
  else
    let infoSize := memRead F 8 4
    .ok (.gnr
      { infoSize := infoSize
        info := slice F 12 (min (12 + infoSize) F.length)
        dataOffset := 12 + infoSize })

end Sys2Proof.Machine
end

