-- ==== Sys2Proof/Machine/Checksum.lean ====
section
/-! DEFINITION. Unit U1, the Checksum Engine (40_checksum.md): CRC_STEP, crc16 and CKSUM. -/

namespace Sys2Proof.Machine

/-- A step function with the one value the reference vector fixes put in (R93):
`CRC_STEP(CRC_STEP(0xFFFF, 0xA6), 0x02) = 0x6865`. A function that meets R93 is its own `withReference`. -/
def withReference (f : Word → Byte → Word) (crc : Word) (b : Byte) : Word :=
  if crc = f Config.crcInit 0xA6 ∧ b = 0x02 then 0x6865 else f crc b

/-- The vendor's CRC_STEP (R93, R94): free, but for the reference vector. Entry 6. -/
def vendorStep : Word → Byte → Word := withReference Config.crcStepFree

/-- One bit of the test fixture (95_test_vectors.md, section 0). -/
def fixtureBit (crc : Word) : Word :=
  if crc.getLsbD 0 then (crc >>> 1) ^^^ 0x8540 else crc >>> 1

/-- CRC_STEP_TC, the test fixture (95_test_vectors.md, section 0): not the device's algorithm. Entry 7. -/
def fixtureStep (crc : Word) (b : Byte) : Word :=
  fixtureBit (fixtureBit (fixtureBit (fixtureBit (fixtureBit (fixtureBit (fixtureBit (fixtureBit
    (crc ^^^ b.setWidth 16))))))))

/-- CRC_STEP as provisioned (R272). -/
def crcStep : CrcStepId → Word → Byte → Word
  | .vendor => vendorStep
  | .testFixture => fixtureStep

/-- fold(c, B) (R96): the loop of R91 started at c. -/
def crcFold (step : Word → Byte → Word) (c : Word) (B : Bytes) : Word := B.foldl step c

/-- crc16(B) (R91): the fold from 0xFFFF, first byte first, no final XOR. -/
def crc16 (step : Word → Byte → Word) (B : Bytes) : Word := crcFold step Config.crcInit B

/-- The crc16 of a state's parameters. -/
def State.crc16 (s : State) (B : Bytes) : Word := Machine.crc16 (crcStep s.params.crcStep) B

/-- CKSUM (R92). -/
def execCksum (data : Bytes) (s : State) : Ended := returns s (.ok (.word (s.crc16 data)))

end Sys2Proof.Machine
end

