-- ==== Sys2Proof/Machine/FrameBuild.lean ====
section
/-! DEFINITION. Unit U2, transmit direction (41_frame_build.md): FRM.BUILD and FRM.BUILDC. The checksum function is an
argument of the helpers (R15). -/

namespace Sys2Proof.Machine

/-- encode_msg(command, payload) (R100, R64). -/
def encodeMsg (crc : Bytes → Word) (command : Byte) (payload : Bytes) : Bytes :=
  let bodyLen : Word := BitVec.ofNat 16 (1 + payload.length)
  let c := crc ([command] ++ payload)
  [0xAA, 0x55, lo8 bodyLen, hi8 bodyLen, command] ++ payload ++ [lo8 c, hi8 c]

/-- chunk_report(chunk) (R104, R63): length byte, the slice, zero padding to 64 bytes. -/
def chunkReport (chunk : Bytes) : Bytes :=
  [BitVec.ofNat 8 chunk.length] ++ chunk ++ zeros (Config.chunkMax - chunk.length)

/-- The number of reports of a message of L bytes, ceil(L / 63) (R109). -/
def reportCount (L : Nat) : Nat := (L + (Config.chunkMax - 1)) / Config.chunkMax

/-- The slices chunk_0 to chunk_{k-1} of a message (R105, R106): greedy, 63 bytes each but the last. -/
def messageSlices (M : Bytes) : List Bytes :=
  (List.range (reportCount M.length)).map
    (fun j => slice M (Config.chunkMax * j) (min (Config.chunkMax * (j + 1)) M.length))

/-- FRM.BUILD's outcome (R101, R102). -/
def buildFrame (crc : Bytes → Word) (command : Byte) (payload : Bytes) : Answer :=
  if payload.length > Config.maxSinglePayload then .frameTooLong payload.length
  else .ok (.report (chunkReport (encodeMsg crc command payload)))

/-- The reports of a message (R105): one when it fits in 63 bytes, else one for each slice. -/
def messageReports (M : Bytes) : List Bytes :=
  if M.length ≤ Config.chunkMax then [chunkReport M] else (messageSlices M).map chunkReport

/-- FRM.BUILDC's outcome (R105, R108). -/
def buildChunked (crc : Bytes → Word) (command : Byte) (payload : Bytes) : Answer :=
  if payload.length > Config.maxPayload then .payloadTooLong payload.length
  else .ok (.reports (messageReports (encodeMsg crc command payload)))

/-- FRM.BUILD (R101). -/
def execFrmBuild (command : Byte) (payload : Bytes) (s : State) : Ended :=
  returns s (buildFrame s.crc16 command payload)

/-- FRM.BUILDC (R105). -/
def execFrmBuildc (command : Byte) (payload : Bytes) (s : State) : Ended :=
  returns s (buildChunked s.crc16 command payload)

end Sys2Proof.Machine
end

