-- ==== Sys2Proof/Machine/Commands.lean ====
section
/-! DEFINITION. The command layer at the boundary (45_command_layer_boundary.md): the builders, the response parsers and one
meaning for each of the fifteen command identifiers. Entry 14. -/

namespace Sys2Proof.Machine

/-- A builder with one slot byte: build_select_preset and build_read_preset (R207, R208). -/
def buildSlot (s : State) (id : Byte) (slot : Int) : Answer :=
  if slot < 0 ∨ slot > Config.slotMax then .boundary (.slotRange slot)
  else buildChunked s.crc16 id [narrow slot]

/-- build_store_preset (R209): the slot is checked first (R250). -/
def buildStore (s : State) (id : Byte) (a : StoreArgs) : Answer :=
  if a.slot < 0 ∨ a.slot > Config.slotMax then .boundary (.slotRange a.slot)
  else if a.record.length ≠ Config.presetSize then .boundary (.storeSize a.record.length)
  else buildChunked s.crc16 id ([narrow a.slot] ++ a.record)

/-- build_effect_param once the module's command is known (R210). -/
def buildEffectParam (s : State) (id : Byte) (index value : Int) : Answer :=
  if index < 0 ∨ index > 255 then .boundary (.valueRange index)
  else if value < 0 ∨ value > 255 then .boundary (.valueRange value)
  else buildChunked s.crc16 id [narrow index, narrow value]

/-- The per-module builders (R210, R211): the toggle sends 1 or 0 at ENABLE_PARAM_INDEX. -/
def buildParam (s : State) (id : Byte) : ParamArgs → Answer
  | .set index value => buildEffectParam s id index value
  | .toggle enabled => buildEffectParam s id s.params.enableParamIndex.toNat (if enabled then 1 else 0)

/-- The volume builder (R212). -/
def buildVolume (s : State) (id : Byte) (value : Int) : Answer :=
  if value < 0 ∨ value > Config.volumeMax then .boundary (.volumeRange value)
  else buildChunked s.crc16 id [narrow value]

/-- The identify request (R213). -/
def buildIdentify (s : State) (id : Byte) (_ : Unit) : Answer :=
  buildChunked s.crc16 id s.params.identifyRequestPayload

/-- The system-settings request (R214): the blob as given. -/
def buildSystem (s : State) (id : Byte) (blob : Bytes) : Answer := buildChunked s.crc16 id blob

/-- The Identify parser (R218, R219). -/
def parseIdentify (payload : Bytes) : Option Response :=
  if payload.length ≥ 16 then some (.identify (slice payload 0 5) (untilNull (slice payload 5 16)))
  else some (.identifyUnknown payload)

/-- The Preset parser (R220). -/
def parsePreset : Bytes → Option Response
  | [] => none
  | slot :: data => some (.presetResp slot data)

/-- The ActivePatch parser (R221). -/
def parseActivePatch : Bytes → Option Response
  | [] => none
  | slot :: _ => some (.activePatch slot)

/-- The Volume parser (R222). -/
def parseVolume : Bytes → Option Response
  | [] => none
  | value :: _ => some (.volume value)

/-- The System parser (R223). -/
def parseSystem (payload : Bytes) : Option Response := some (.system payload)

/-- A command with no entry in the response table (R224). -/
def noParser (_ : Bytes) : Option Response := none

/-- One use of a command identifier (R190): its own builder, the generic builder (R215), or its response parser with the
fallback to the untyped frame (R217, R224, R225). -/
def commandUse {α : Type} (id : Byte) (build : State → Byte → α → Answer) (parser : Bytes → Option Response)
    (u : CmdUse α) (s : State) : Ended :=
  match u with
  | .request a => returns s (build s id a)
  | .generic payload => returns s (buildChunked s.crc16 id payload)
  | .response payload => returns s (.ok (.response ((parser payload).getD (.untyped ⟨id, payload⟩))))

/-- CMD.Identify (R191). -/
def execCmdIdentify (u : CmdUse Unit) (s : State) : Ended := commandUse 0x10 buildIdentify parseIdentify u s
/-- CMD.Preset (R192). -/
def execCmdPreset (u : CmdUse Int) (s : State) : Ended := commandUse 0x83 buildSlot parsePreset u s
/-- CMD.FX (R193). -/
def execCmdFx (u : CmdUse ParamArgs) (s : State) : Ended := commandUse 0x90 buildParam noParser u s
/-- CMD.DS_OD (R194). -/
def execCmdOd (u : CmdUse ParamArgs) (s : State) : Ended := commandUse 0x91 buildParam noParser u s
/-- CMD.AMP (R195). -/
def execCmdAmp (u : CmdUse ParamArgs) (s : State) : Ended := commandUse 0x93 buildParam noParser u s
/-- CMD.CAB (R196). -/
def execCmdCab (u : CmdUse ParamArgs) (s : State) : Ended := commandUse 0x94 buildParam noParser u s
/-- CMD.NS-Gate (R197). -/
def execCmdNs (u : CmdUse ParamArgs) (s : State) : Ended := commandUse 0x95 buildParam noParser u s
/-- CMD.EQ (R198). -/
def execCmdEq (u : CmdUse ParamArgs) (s : State) : Ended := commandUse 0x96 buildParam noParser u s
/-- CMD.MOD (R199). -/
def execCmdMod (u : CmdUse ParamArgs) (s : State) : Ended := commandUse 0x97 buildParam noParser u s
/-- CMD.DELAY (R200). -/
def execCmdDelay (u : CmdUse ParamArgs) (s : State) : Ended := commandUse 0x98 buildParam noParser u s
/-- CMD.REVERB (R201). -/
def execCmdReverb (u : CmdUse ParamArgs) (s : State) : Ended := commandUse 0x99 buildParam noParser u s
/-- CMD.System (R202). -/
def execCmdSystem (u : CmdUse Bytes) (s : State) : Ended := commandUse 0xA1 buildSystem parseSystem u s
/-- CMD.Volume (R203). -/
def execCmdVolume (u : CmdUse Int) (s : State) : Ended := commandUse 0xA2 buildVolume parseVolume u s
/-- CMD.ActivePatch (R204). -/
def execCmdActivePatch (u : CmdUse Int) (s : State) : Ended := commandUse 0xA6 buildSlot parseActivePatch u s
/-- CMD.StorePatch (R205). -/
def execCmdStorePatch (u : CmdUse StoreArgs) (s : State) : Ended := commandUse 0xA8 buildStore noParser u s

/-- MODULE_COMMAND(name) (R206): the nine lower-case names of the data model; every other name is unknown (D36). -/
def moduleCommand (name : String) : Option Byte :=
  if name = "fx" then some 0x90
  else if name = "od" then some 0x91
  else if name = "amp" then some 0x93
  else if name = "cab" then some 0x94
  else if name = "ns" then some 0x95
  else if name = "eq" then some 0x96
  else if name = "mod" then some 0x97
  else if name = "delay" then some 0x98
  else if name = "reverb" then some 0x99
  else none

end Sys2Proof.Machine
end

