-- ==== Sys2Proof/Machine/FrameParse.lean ====
section
/-! DEFINITION. Unit U2, receive direction (42_frame_parse.md): FRM.PARSE and FRM.PARSEC. The checksum function is an argument
of the helpers (R15). -/

namespace Sys2Proof.Machine

/-- FRM.PARSE's checks in their order (R116 to R121, R133), the failed one named as R248 names it. -/
def parseReport (crc : Bytes → Word) (report : Bytes) : Except NoFrameReason Frame :=
  if report.length < 8 then .error .shortReport
  else if (byteAt report 0).toNat < 7 then .error .shortDeclaredLen
  else if byteAt report 1 ≠ 0xAA ∨ byteAt report 2 ≠ 0x55 then .error .badPreamble
  else
    let bodySize := (le16 report 3).toNat
    if bodySize < 1 then .error .zeroBody
    else if 7 + bodySize > report.length then .error .truncated
    else if crc (slice report 5 (5 + bodySize)) ≠ le16 report (5 + bodySize) then .error .badChecksum
    else .ok { command := byteAt report 5, payload := slice report 6 (5 + bodySize) }

/-- Reassembly (R125 to R127): the meaningful slices of the reports, concatenated in list order; the first report that
cannot supply what it declares ends it. -/
def reassemble : List Bytes → Except NoFrameReason Bytes
  | [] => .ok []
  | [] :: _ => .error .emptyReport
  | (m :: rest) :: rs =>
    if m.toNat > rest.length then .error .chunkOverrun
    else
      match reassemble rs with
      | .ok B => .ok (rest.take m.toNat ++ B)
      | .error e => .error e

/-- Validation of the reassembled buffer (R125, R128 to R130). -/
def parseMessage (crc : Bytes → Word) (B : Bytes) : Except NoFrameReason Frame :=
  if B.length < 7 then .error .shortMessage
  else if byteAt B 0 ≠ 0xAA ∨ byteAt B 1 ≠ 0x55 then .error .badPreamble
  else
    let bodySize := (le16 B 2).toNat
    if bodySize < 1 then .error .zeroBody
    else if 6 + bodySize > B.length then .error .truncated
    else if crc (slice B 4 (4 + bodySize)) ≠ le16 B (4 + bodySize) then .error .badChecksum
    else .ok { command := byteAt B 4, payload := slice B 5 (4 + bodySize) }

/-- FRM.PARSEC's reassembly and validation (R125). -/
def parseReports (crc : Bytes → Word) (reports : List Bytes) : Except NoFrameReason Frame :=
  match reassemble reports with
  | .ok B => parseMessage crc B
  | .error e => .error e

/-- FRM.PARSE (R116). -/
def execFrmParse (report : Bytes) (s : State) : Ended := returnsParse s (parseReport s.crc16 report)

/-- FRM.PARSEC (R125). -/
def execFrmParsec (reports : List Bytes) (s : State) : Ended := returnsParse s (parseReports s.crc16 reports)

end Sys2Proof.Machine
end

