-- ==== Sys2Proof/Machine/Dispatch.lean ====
section
/-! DEFINITION. One arm per instruction, each one call of its meaning. -/

namespace Sys2Proof.Machine

/-- The meaning of an instruction in a state. -/
def exec (i : Instr) (s : State) : Host.Outcome State Fault Refusal :=
  match i with
  | .cksum data => Sys2Proof.Machine.execCksum data s
  | .frmBuild command payload => Sys2Proof.Machine.execFrmBuild command payload s
  | .frmBuildc command payload => Sys2Proof.Machine.execFrmBuildc command payload s
  | .frmParse report => Sys2Proof.Machine.execFrmParse report s
  | .frmParsec reports => Sys2Proof.Machine.execFrmParsec reports s
  | .pstNew => Sys2Proof.Machine.execPstNew s
  | .pstEnc p => Sys2Proof.Machine.execPstEnc p s
  | .pstDec buf => Sys2Proof.Machine.execPstDec buf s
  | .pstSetp p k field value => Sys2Proof.Machine.execPstSetp p k field value s
  | .modEncFx m => Sys2Proof.Machine.execModEncFx m s
  | .modEncOd m => Sys2Proof.Machine.execModEncOd m s
  | .modEncAmp m => Sys2Proof.Machine.execModEncAmp m s
  | .modEncCab m => Sys2Proof.Machine.execModEncCab m s
  | .modEncNs m => Sys2Proof.Machine.execModEncNs m s
  | .modEncEq m => Sys2Proof.Machine.execModEncEq m s
  | .modEncMod m => Sys2Proof.Machine.execModEncMod m s
  | .modEncDelay m => Sys2Proof.Machine.execModEncDelay m s
  | .modEncReverb m => Sys2Proof.Machine.execModEncReverb m s
  | .modDecFx buf => Sys2Proof.Machine.execModDecFx buf s
  | .modDecOd buf => Sys2Proof.Machine.execModDecOd buf s
  | .modDecAmp buf => Sys2Proof.Machine.execModDecAmp buf s
  | .modDecCab buf => Sys2Proof.Machine.execModDecCab buf s
  | .modDecNs buf => Sys2Proof.Machine.execModDecNs buf s
  | .modDecEq buf => Sys2Proof.Machine.execModDecEq buf s
  | .modDecMod buf => Sys2Proof.Machine.execModDecMod buf s
  | .modDecDelay buf => Sys2Proof.Machine.execModDecDelay buf s
  | .modDecReverb buf => Sys2Proof.Machine.execModDecReverb buf s
  | .cmdIdentify u => Sys2Proof.Machine.execCmdIdentify u s
  | .cmdPreset u => Sys2Proof.Machine.execCmdPreset u s
  | .cmdFx u => Sys2Proof.Machine.execCmdFx u s
  | .cmdOd u => Sys2Proof.Machine.execCmdOd u s
  | .cmdAmp u => Sys2Proof.Machine.execCmdAmp u s
  | .cmdCab u => Sys2Proof.Machine.execCmdCab u s
  | .cmdNs u => Sys2Proof.Machine.execCmdNs u s
  | .cmdEq u => Sys2Proof.Machine.execCmdEq u s
  | .cmdMod u => Sys2Proof.Machine.execCmdMod u s
  | .cmdDelay u => Sys2Proof.Machine.execCmdDelay u s
  | .cmdReverb u => Sys2Proof.Machine.execCmdReverb u s
  | .cmdSystem u => Sys2Proof.Machine.execCmdSystem u s
  | .cmdVolume u => Sys2Proof.Machine.execCmdVolume u s
  | .cmdActivePatch u => Sys2Proof.Machine.execCmdActivePatch u s
  | .cmdStorePatch u => Sys2Proof.Machine.execCmdStorePatch u s

end Sys2Proof.Machine
end

