-- ==== Sys2Proof/Machine/Perform.lean ====
section
/-! DEFINITION. How one host call is performed: a transaction is decoded and executed; a boundary function without a code of
its own is lowered to a transaction or computed (R86, R210, R211, R215, R230 to R243). -/

namespace Sys2Proof.Machine

/-- A transaction whose code names no command of the enumeration: the generic builder reports UnknownCommand (R215), the
response parser falls back to the untyped frame (R224), and no other call of the command layer exists. Entry 15. The
error carries the byte as an integer: entry 25. -/
def performUnknownCommand (id : Byte) (x : Operands) (s : State) : Ended :=
  match x with
  | .generic _ => returns s (.boundary (.unknownCommand id.toNat))
  | .response payload =>
    if payload.length ≤ Config.maxPayload then returns s (.ok (.response (.untyped ⟨id, payload⟩)))
    else .refused .operandShape
  | _ => .refused .operandShape

/-- A transaction: decoded, then executed; an unassigned op-select code is refused (R81). -/
def performTxn (t : Txn) (s : State) : Ended :=
  match decode t with
  | .ok i => exec i s
  | .error (.noSuchOperation code) => .refused (.noSuchOperation code)
  | .error (.unknownCommand id) => performUnknownCommand id t.operands s
  | .error .operandShape => .refused .operandShape

/-- A per-module builder called by module name (R210, R211): the name is resolved first. -/
def performByName (name : String) (x : Operands) (s : State) : Ended :=
  match moduleCommand name with
  | none => returns s (.boundary (.unknownModule name))
  | some id => performTxn ⟨.cmd, id, x⟩ s

/-- build_command(id, payload) (R215). The spec leaves the type of id open; the model takes any integer, as R206 has it
for a builder's arguments, and one that is no byte is none of the fifteen. DESIGN CHOICE, entry 25. -/
def performBuildCommand (id : Int) (payload : Bytes) (s : State) : Ended :=
  if id < 0 ∨ id > 255 then returns s (.boundary (.unknownCommand id))
  else performTxn ⟨.cmd, narrow id, .generic payload⟩ s

/-- One host call. -/
def perform (c : Call) (s : State) : Ended :=
  match c with
  | .txn t => performTxn t s
  | .effectParam name index value => performByName name (.param index value) s
  | .toggleEffect name enabled => performByName name (.toggle enabled) s
  | .buildCommand id payload => performBuildCommand id payload s
  | .exportMo p => if p.wf then returns s (exportMo s.params p) else .refused .operandShape
  | .importMo file => returns s (importMo file)
  | .exportMbf manufacturer model presets =>
    if presets.all Preset.wf then returns s (exportMbf s.params manufacturer model presets)
    else .refused .operandShape
  | .importMbf file => returns s (importMbf file)
  | .parseGnrHeader file => returns s (parseGnrHeader file)

end Sys2Proof.Machine
end

