-- ==== Sys2Proof/Machine/Step.lean ====
section
/-! DEFINITION. One step: the block performs the host's next call (R54). -/

namespace Sys2Proof.Machine

/-- One step. The first pending call is taken and performed; with none pending the block idles, its state unchanged
(R270: what happens first after reset is whatever the host issues first). Entry 1. -/
def step (s : State) : Host.Outcome State Fault Refusal :=
  match s.pending with
  | [] => .next s
  | c :: rest => perform c (s.withPending rest)

/-- `s` with the table word's transaction issued as the very next call. Entries 12 and 13. -/
def State.withFetchWord (s : State) (_nbits w : Nat) : State :=
  s.withPending (.txn (tableTxn w) :: s.pending)

end Sys2Proof.Machine
end

