-- ==== Sys2Proof/Machine/Flags.lean ====
section
/-! DEFINITION. The block has no flags or condition codes (R23 of 10_state.md): an operation's outcome stands in their place.
Here are the kinds of outcome, which R257 (60_exceptions.md) keeps apart. -/

namespace Sys2Proof.Machine

/-- The kinds of outcome (R245): Ok, the wire-level NoFrame, a refusal of the block, an error of the boundary layer. -/
inductive Regime where
  | ok
  | noFrame
  | refusal
  | boundaryError
deriving DecidableEq, Repr

/-- The kind of an outcome (R245 to R247). -/
def Answer.regime : Answer → Regime
  | .ok _ => .ok
  | .noFrame => .noFrame
  | .frameTooLong _ => .refusal
  | .payloadTooLong _ => .refusal
  | .unknownField _ _ => .refusal
  | .valueRange _ _ _ _ => .refusal
  | .boundary _ => .boundaryError

end Sys2Proof.Machine
end

