-- ==== Sys2Proof/Safety.lean ====
section
/-! DEFINITION. What a good state is: nothing live between operations (R20, R24, R26), parameters within their constraints
(R273), and an outcome whose result has the shape R80 gives it. -/

namespace Sys2Proof.Machine

/-- A result of the shape R80 (and, at the boundary, R217 to R242) gives it. -/
def Result.wf : Result → Bool
  | .word _ => true
  | .report r => r.length == Config.reportSize
  | .reports rs => !rs.isEmpty && rs.all (fun r => r.length == Config.reportSize)
  | .frame f => f.wf
  | .preset p => p.wf
  | .record b => b.length == Config.presetSize
  | .effect k m => m.wf k
  | .effectRecord k b => b.length == k.size
  | .response _ => true
  | .moFile b => b.length == 2048
  | .mbfFile b => b.length == mbfHeaderLen + mbfEntries * mbfEntryLen
  | .backup b => b.version.length == 4 && decide (b.presets.length ≤ mbfEntries) && b.presets.all Preset.wf
  | .gnr h => decide (h.info.length ≤ h.infoSize) && h.dataOffset == 12 + h.infoSize

/-- The name of a module kind (R206). -/
def moduleName : ModuleKind → String
  | .fx => "fx"
  | .od => "od"
  | .amp => "amp"
  | .cab => "cab"
  | .ns => "ns"
  | .eq => "eq"
  | .mod => "mod"
  | .delay => "delay"
  | .reverb => "reverb"

/-- The command identifiers the source lists (R191 to R205). -/
def commandIds : List Byte :=
  [0x10, 0x83, 0x90, 0x91, 0x93, 0x94, 0x95, 0x96, 0x97, 0x98, 0x99, 0xA1, 0xA2, 0xA6, 0xA8]

/-- Whether an integer lies in a range the spec gives. -/
def inRange (lo hi v : Int) : Bool := decide (lo ≤ v) && decide (v ≤ hi)

/-- A boundary error that R246 gives a cause records a value for which the cause holds; FileSize records one of the four
size checks of R243. -/
def BoundaryError.wf : BoundaryError → Bool
  | .slotRange v => !inRange 0 199 v
  | .storeSize n => n != 512
  | .unknownModule name => ModuleKind.all.all (fun k => name != moduleName k)
  | .valueRange v => !inRange 0 255 v
  | .volumeRange v => !inRange 0 100 v
  | .unknownCommand id => commandIds.all (fun c => id != c.toNat)
  | .fileSize required actual =>
    ((required == 0x400 || required == 44 || required == 12) && decide (actual < required)) ||
      (required == 199 && decide (actual > 199))
  | .badMagic => true

/-- An outcome that records what R246 and R247 say it records: every refusal and every error with a recorded value holds
one for which its cause holds under the parameters. NoFrame and BadMagic record nothing. -/
def Answer.wf (c : Params) : Answer → Bool
  | .ok r => r.wf
  | .noFrame => true
  | .frameTooLong n => decide (n > Config.maxSinglePayload)
  | .payloadTooLong n => decide (n > Config.maxPayload)
  | .unknownField k field => (findField c k field).isNone
  | .valueRange field lo hi v => ModuleKind.all.any (fun k =>
      match findField c k field with
      | some e => lo == 0 && hi == 256 ^ e.width - 1 && !inRange lo hi v
      | none => false)
  | .boundary e => e.wf

/-- The invariant of the machine. -/
structure State.Inv (s : State) : Prop where
  /-- The working register is not live (R24). -/
  crcIdle : s.crc = none
  /-- No reassembled buffer exists (R26). -/
  reassemblyIdle : s.reassembly = none
  /-- The parameters meet R273. -/
  paramsValid : s.params.valid = true
  /-- The outcome at the port has its shape. -/
  answerWf : ∀ a, s.answer = some a → a.wf s.params = true

/-- `i` runs to its end in `s` and returns `a` (R245): the next state holds the outcome at the port, nothing of the
operation is live, and the parameters and the other pending calls are as they were (R20, R25, R252). -/
def Completes (i : Instr) (s : State) (a : Answer) : Prop :=
  ∃ t, exec i s = .next t ∧ t.answer = some a ∧ t.params = s.params ∧ t.pending = s.pending ∧
    t.crc = none ∧ t.reassembly = none

/-- The host call `c` is performed in one step when it is the next one (R54) and returns `a`; the frame is that of
`Completes`, with the calls behind it left pending. -/
def CallCompletes (c : Call) (s : State) (a : Answer) : Prop :=
  ∀ rest, ∃ t, step (s.withPending (c :: rest)) = .next t ∧ t.answer = some a ∧ t.params = s.params ∧
    t.pending = rest ∧ t.crc = none ∧ t.reassembly = none

/-- MOD.ENC.k as an instruction (R159 to R167). -/
def modEncInstr : ModuleKind → EffectModule → Instr
  | .fx => .modEncFx
  | .od => .modEncOd
  | .amp => .modEncAmp
  | .cab => .modEncCab
  | .ns => .modEncNs
  | .eq => .modEncEq
  | .mod => .modEncMod
  | .delay => .modEncDelay
  | .reverb => .modEncReverb

/-- MOD.DEC.k as an instruction (R168 to R175, R179). -/
def modDecInstr : ModuleKind → Bytes → Instr
  | .fx => .modDecFx
  | .od => .modDecOd
  | .amp => .modDecAmp
  | .cab => .modDecCab
  | .ns => .modDecNs
  | .eq => .modDecEq
  | .mod => .modDecMod
  | .delay => .modDecDelay
  | .reverb => .modDecReverb

/-- The per-module parameter command of kind k as an instruction (R193 to R201). -/
def cmdModuleInstr : ModuleKind → CmdUse ParamArgs → Instr
  | .fx => .cmdFx
  | .od => .cmdOd
  | .amp => .cmdAmp
  | .cab => .cmdCab
  | .ns => .cmdNs
  | .eq => .cmdEq
  | .mod => .cmdMod
  | .delay => .cmdDelay
  | .reverb => .cmdReverb

/-- The command identifier of a module kind (R206). -/
def moduleCommandId : ModuleKind → Byte
  | .fx => 0x90
  | .od => 0x91
  | .amp => 0x93
  | .cab => 0x94
  | .ns => 0x95
  | .eq => 0x96
  | .mod => 0x97
  | .delay => 0x98
  | .reverb => 0x99

/-- The name of band i of the eq module's field table (R178). -/
def bandName (i : Fin 12) : String :=
  ["band0", "band1", "band2", "band3", "band4", "band5", "band6", "band7", "band8", "band9", "band10", "band11"][i]

/-- The op-select codes R79 assigns. -/
def opSelectCodes : List Byte :=
  [0x00, 0x10, 0x11, 0x12, 0x13, 0x20, 0x21, 0x22, 0x23,
   0x30, 0x31, 0x32, 0x33, 0x34, 0x35, 0x36, 0x37, 0x38,
   0x40, 0x41, 0x42, 0x43, 0x44, 0x45, 0x46, 0x47, 0x48]

/-- A report that can supply what it declares (R127). -/
def suppliesDeclared (r : Bytes) : Bool := decide (1 ≤ r.length) && decide (1 + (byteAt r 0).toNat ≤ r.length)

/-- The reassembled buffer of a list of reports: their meaningful slices in list order (R19, R126). -/
def reassembledBuffer (rs : List Bytes) : Bytes := (rs.map (fun r => slice r 1 (1 + (byteAt r 0).toNat))).flatten

/-- An outcome of FRM.BUILDC for a payload (R247). -/
def admitsChunked (payload : Bytes) : Answer → Bool
  | .ok (.reports _) => decide (payload.length ≤ 65534)
  | .payloadTooLong n => n == payload.length && decide (payload.length > 65534)
  | _ => false

/-- An outcome of a parse operation (R115, R247). -/
def admitsParse : Answer → Bool
  | .ok (.frame _) => true
  | .noFrame => true
  | _ => false

/-- An outcome of a use of a command identifier: a response for a frame (R225), what FRM.BUILDC gives for a generic build
(R215), and for a request an outcome of its own builder. -/
def admitsUse {α : Type} (request : α → Answer → Bool) : CmdUse α → Answer → Bool
  | .request x, a => request x a
  | .generic payload, a => admitsChunked payload a
  | .response _, .ok (.response _) => true
  | .response _, _ => false

/-- An outcome of a slot request (R207, R208): reports for a slot in range, else SlotRange of that slot. -/
def admitsSlot (slot : Int) : Answer → Bool
  | .ok (.reports _) => inRange 0 199 slot
  | .boundary (.slotRange v) => v == slot && !inRange 0 199 slot
  | _ => false

/-- An outcome of a store request (R209): SlotRange of its slot, StoreSize of its record's length when the slot is in
range, else reports. -/
def admitsStore (x : StoreArgs) : Answer → Bool
  | .ok (.reports _) => inRange 0 199 x.slot && x.record.length == 512
  | .boundary (.slotRange v) => v == x.slot && !inRange 0 199 x.slot
  | .boundary (.storeSize n) => inRange 0 199 x.slot && n == x.record.length && n != 512
  | _ => false

/-- An outcome of a per-module request (R210, R211): ValueRange of its index, or of its value when the index is in range,
else reports; a toggle gives reports only. -/
def admitsParam : ParamArgs → Answer → Bool
  | .set i v, .ok (.reports _) => inRange 0 255 i && inRange 0 255 v
  | .set i v, .boundary (.valueRange x) => if inRange 0 255 i then x == v && !inRange 0 255 v else x == i
  | .toggle _, .ok (.reports _) => true
  | _, _ => false

/-- An outcome of a volume request (R212): reports for a volume in range, else VolumeRange of that volume. -/
def admitsVolume (v : Int) : Answer → Bool
  | .ok (.reports _) => inRange 0 100 v
  | .boundary (.volumeRange x) => x == v && !inRange 0 100 v
  | _ => false

/-- An outcome of PST.SETP (R147, R148, R250): UnknownField of its kind and name when FIELD_TABLE(k) lacks the name, else
ValueRange of its field and value, or a preset, by the entry's range. -/
def admitsSetParam (c : Params) (k : ModuleKind) (field : String) (v : Int) (a : Answer) : Bool :=
  match findField c k field, a with
  | none, .unknownField k' f => k' == k && f == field
  | some e, .ok (.preset _) => inRange 0 (256 ^ e.width - 1) v
  | some e, .valueRange f lo hi v' =>
    f == field && lo == 0 && hi == 256 ^ e.width - 1 && v' == v && !inRange 0 (256 ^ e.width - 1) v
  | _, _ => false

/-- The outcomes each instruction may end with under given parameters (R247, R246). -/
def admits (c : Params) (i : Instr) (a : Answer) : Bool :=
  match i with
  | .cksum _ => match a with | .ok (.word _) => true | _ => false
  | .frmBuild _ P =>
    match a with
    | .ok (.report _) => decide (P.length ≤ 56)
    | .frameTooLong n => n == P.length && decide (P.length > 56)
    | _ => false
  | .frmBuildc _ P => admitsChunked P a
  | .frmParse _ => admitsParse a
  | .frmParsec _ => admitsParse a
  | .pstNew => match a with | .ok (.preset _) => true | _ => false
  | .pstEnc _ => match a with | .ok (.record _) => true | _ => false
  | .pstDec _ => match a with | .ok (.preset _) => true | _ => false
  | .pstSetp _ k field v => admitsSetParam c k field v a
  | .modEncFx _ => match a with | .ok (.effectRecord .fx _) => true | _ => false
  | .modEncOd _ => match a with | .ok (.effectRecord .od _) => true | _ => false
  | .modEncAmp _ => match a with | .ok (.effectRecord .amp _) => true | _ => false
  | .modEncCab _ => match a with | .ok (.effectRecord .cab _) => true | _ => false
  | .modEncNs _ => match a with | .ok (.effectRecord .ns _) => true | _ => false
  | .modEncEq _ => match a with | .ok (.effectRecord .eq _) => true | _ => false
  | .modEncMod _ => match a with | .ok (.effectRecord .mod _) => true | _ => false
  | .modEncDelay _ => match a with | .ok (.effectRecord .delay _) => true | _ => false
  | .modEncReverb _ => match a with | .ok (.effectRecord .reverb _) => true | _ => false
  | .modDecFx _ => match a with | .ok (.effect .fx _) => true | _ => false
  | .modDecOd _ => match a with | .ok (.effect .od _) => true | _ => false
  | .modDecAmp _ => match a with | .ok (.effect .amp _) => true | _ => false
  | .modDecCab _ => match a with | .ok (.effect .cab _) => true | _ => false
  | .modDecNs _ => match a with | .ok (.effect .ns _) => true | _ => false
  | .modDecEq _ => match a with | .ok (.effect .eq _) => true | _ => false
  | .modDecMod _ => match a with | .ok (.effect .mod _) => true | _ => false
  | .modDecDelay _ => match a with | .ok (.effect .delay _) => true | _ => false
  | .modDecReverb _ => match a with | .ok (.effect .reverb _) => true | _ => false
  | .cmdIdentify u => admitsUse (fun _ => admitsChunked c.identifyRequestPayload) u a
  | .cmdPreset u => admitsUse admitsSlot u a
  | .cmdFx u => admitsUse admitsParam u a
  | .cmdOd u => admitsUse admitsParam u a
  | .cmdAmp u => admitsUse admitsParam u a
  | .cmdCab u => admitsUse admitsParam u a
  | .cmdNs u => admitsUse admitsParam u a
  | .cmdEq u => admitsUse admitsParam u a
  | .cmdMod u => admitsUse admitsParam u a
  | .cmdDelay u => admitsUse admitsParam u a
  | .cmdReverb u => admitsUse admitsParam u a
  | .cmdSystem u => admitsUse admitsChunked u a
  | .cmdVolume u => admitsUse admitsVolume u a
  | .cmdActivePatch u => admitsUse admitsSlot u a
  | .cmdStorePatch u => admitsUse admitsStore u a

/-- The answer at the port after a step or a meaning, when it gives a next state. -/
def answerOf : Ended → Option Answer
  | .next s => s.answer
  | .fault _ => none
  | .refused _ => none

end Sys2Proof.Machine
end

