-- ==== Sys2Proof/Certificates/Slice0/Obligations.lean ====
section
/-! DEFINITION. The statements for the provers, one definition each. `Completes i s a` (Safety.lean): instruction i runs to
its end in s and returns the outcome a, with the frame (parameters and other pending calls as they were, nothing live).
`CallCompletes c s a`: the same of a host call, performed by one step. The memory frame of a processor has no
counterpart: the block has no memory, register or flag (R21, R23, R40). -/

open Sys2Proof Sys2Proof.Machine

/-- Reset: nothing live, nothing issued, the defaults of R273 provisioned, the model's own fields empty (entries 3, 5,
9) (R35, R273, notes/assumptions/3.md, notes/assumptions/9.md). -/
def Obligations.ResetIsIdleWithDefaults : Prop :=
  State.reset.crc = none ∧ State.reset.reassembly = none ∧ State.reset.pending = [] ∧
  State.reset.params.sizeFieldValue = 500 ∧ State.reset.params.nameReplacement = 0x3F ∧
  State.reset.params.identifyRequestPayload = [] ∧ State.reset.answer = none ∧ State.reset.reason = none

/-- Reset: the invariant of the machine holds (R35, R273, R24, R26). -/
def Obligations.ResetMeetsInvariant : Prop :=
  State.reset.Inv

/-- Every step keeps the invariant: nothing live, parameters valid, every outcome of its shape, every recorded value
one for which its cause holds (R20, R24, R25, R26, R27, R28, R80, R141, R181, R246, R247, R273). -/
def Obligations.StepKeepsInvariant : Prop :=
  ∀ s t : State, s.Inv → step s = .next t → t.Inv

/-- A step runs the instruction that the next transaction decodes to (the list of pending calls is the model's, entry
1) (R54, R79, R80, notes/assumptions/1.md). -/
def Obligations.StepRunsDecodedInstruction : Prop :=
  ∀ (s : State) (x : Txn) (rest : List Call) (i : Instr), s.pending = .txn x :: rest → decode x = .ok i →
    step s = exec i (s.withPending rest) ∧
    (s.withPending rest).pending = rest ∧ (s.withPending rest).params = s.params ∧
    (s.withPending rest).crc = s.crc ∧ (s.withPending rest).reassembly = s.reassembly ∧
    (s.withPending rest).answer = s.answer ∧ (s.withPending rest).reason = s.reason

/-- With no call pending a step changes nothing (the model's choice, entry 1) (R270, R20, notes/assumptions/1.md). -/
def Obligations.IdleStepChangesNothing : Prop :=
  ∀ s : State, s.pending = [] → step s = .next s

/-- A step takes exactly the first pending call and writes no parameter (the list of pending calls is the model's,
entry 1) (R54, R25, R20, notes/assumptions/1.md). -/
def Obligations.StepTakesCallsInOrder : Prop :=
  ∀ (s t : State) (c : Call) (rest : List Call), s.pending = c :: rest → step s = .next t →
    t.pending = rest ∧ t.params = s.params ∧ (∃ a, t.answer = some a) ∧ t.crc = none ∧ t.reassembly = none

/-- No step changes a parameter (R25, R272, R273). -/
def Obligations.ParametersNeverChange : Prop :=
  ∀ s t : State, step s = .next t → t.params = s.params

/-- Purity: an instruction's outcome depends on its operands and the parameters only (R20, R24, R26). -/
def Obligations.OutcomeDependsOnOperandsAndParameters : Prop :=
  ∀ (i : Instr) (s s' : State), s.params = s'.params → ∃ a, Completes i s a ∧ Completes i s' a

/-- Every instruction ends, with the outcome that R247 (R246 at the boundary) gives its operands; of a parse: a frame
or NoFrame (R245, R246, R247, R250, R257, R115). -/
def Obligations.EveryInstructionEndsWithItsOutcomes : Prop :=
  ∀ (i : Instr) (s : State), ∃ a, Completes i s a ∧ admits s.params i a = true

/-- Sample codes of R79 and of the command enumeration decode as the spec writes them (R79, R191, R204, R81). -/
def Obligations.DecodeReadsTheSpecsCodes : Prop :=
  decode ⟨.op, 0x00, .bytes [0xA6, 0x02]⟩ = .ok (.cksum [0xA6, 0x02]) ∧
  decode ⟨.op, 0x10, .frame 0xA6 [0x02]⟩ = .ok (.frmBuild 0xA6 [0x02]) ∧
  decode ⟨.op, 0x13, .reports [[0x00]]⟩ = .ok (.frmParsec [[0x00]]) ∧
  decode ⟨.op, 0x20, .none⟩ = .ok .pstNew ∧
  decode ⟨.op, 0x47, .bytes []⟩ = .ok (.modDecDelay []) ∧
  decode ⟨.cmd, 0x10, .query⟩ = .ok (.cmdIdentify (.request ())) ∧
  decode ⟨.cmd, 0xA6, .number 2⟩ = .ok (.cmdActivePatch (.request 2)) ∧
  decode ⟨.op, 0x39, .none⟩ = .error (.noSuchOperation 0x39)

/-- Decode and encode agree in both directions, for every instruction and every transaction (R79, R80, R81, R190). -/
def Obligations.DecodeAndEncodeAgree : Prop :=
  ∀ (x : Txn) (i : Instr), decode x = .ok i ↔ i.wf = true ∧ encode i = x

/-- An op-select code outside R79 is refused and gets no step (R81). -/
def Obligations.UnassignedOpSelectIsRefused : Prop :=
  (∀ (code : Byte) (x : Operands) (s : State) (rest : List Call), code ∉ opSelectCodes →
    step (s.withPending (.txn ⟨.op, code, x⟩ :: rest)) = .refused (.noSuchOperation code)) ∧
  ∀ code ∈ opSelectCodes, ∃ x i, decode ⟨.op, code, x⟩ = .ok i

/-- CKSUM returns the fold of CRC_STEP from 0xFFFF over the bytes, first byte first (R91, R92). -/
def Obligations.CksumFoldsTheBytes : Prop :=
  ∀ (data : Bytes) (s : State),
    Completes (.cksum data) s (.ok (.word (data.foldl (crcStep s.params.crcStep) 0xFFFF)))

/-- CKSUM of the empty sequence is 0xFFFF and of A6 02 is 0x6865, whatever step function is provisioned (R91, R93). -/
def Obligations.CksumReferenceVector : Prop :=
  ∀ s : State, Completes (.cksum []) s (.ok (.word 0xFFFF)) ∧
    Completes (.cksum [0xA6, 0x02]) s (.ok (.word 0x6865)) ∧
    crcStep s.params.crcStep (crcStep s.params.crcStep 0xFFFF 0xA6) 0x02 = 0x6865

/-- The vendor's step function is any function that meets R93 (the model's reading, entry 6) (R93, R94,
notes/assumptions/6.md). -/
def Obligations.VendorStepIsFreeButForReference : Prop :=
  vendorStep = withReference Config.crcStepFree ∧
  (∀ f : Word → Byte → Word, withReference f (withReference f 0xFFFF 0xA6) 0x02 = 0x6865) ∧
  (∀ f : Word → Byte → Word, f (f 0xFFFF 0xA6) 0x02 = 0x6865 → withReference f = f) ∧
  ∀ (f : Word → Byte → Word) (c : Word) (b : Byte), ¬ (c = f 0xFFFF 0xA6 ∧ b = 0x02) → withReference f c b = f c b

/-- The checksum of a concatenation continues from the checksum of the prefix (R96). -/
def Obligations.CrcOfConcatenation : Prop :=
  ∀ (step : Word → Byte → Word) (A B : Bytes), crc16 step (A ++ B) = crcFold step (crc16 step A) B

/-- FRM.BUILD lays out the 64-byte FRAME1 report for a payload of at most 56 bytes (R61, R62, R65, R66, R97, R100,
R101). -/
def Obligations.BuildFrameLayout : Prop :=
  ∀ (c : Byte) (P : Bytes) (s : State), P.length ≤ 56 →
    Completes (.frmBuild c P) s (.ok (.report
      ([BitVec.ofNat 8 (7 + P.length), 0xAA, 0x55, BitVec.ofNat 8 (1 + P.length), 0x00, c] ++ P ++
        [lo8 (s.crc16 (c :: P)), hi8 (s.crc16 (c :: P))] ++ zeros (56 - P.length))))

/-- FRM.BUILD 0xA6, [0x02] gives the source's worked example and FRM.PARSE reads it back (R113, R116). -/
def Obligations.BuildFrameWorkedExample : Prop :=
  ∀ s : State,
    Completes (.frmBuild 0xA6 [0x02]) s
      (.ok (.report ([0x08, 0xAA, 0x55, 0x02, 0x00, 0xA6, 0x02, 0x65, 0x68] ++ zeros 55))) ∧
    Completes (.frmParse ([0x08, 0xAA, 0x55, 0x02, 0x00, 0xA6, 0x02, 0x65, 0x68] ++ zeros 55)) s
      (.ok (.frame ⟨0xA6, [0x02]⟩))

/-- FRM.BUILD refuses a payload over 56 bytes with FrameTooLong (R102, R247). -/
def Obligations.BuildFrameRefusesLongPayload : Prop :=
  ∀ (c : Byte) (P : Bytes) (s : State), P.length > 56 → Completes (.frmBuild c P) s (.frameTooLong P.length)

/-- Every report FRM.BUILD returns: 64 bytes, byte 0, preamble, byte 4, padding (R103). -/
def Obligations.BuildFrameReportProperties : Prop :=
  ∀ (c : Byte) (P : Bytes) (s : State) (r : Bytes), Completes (.frmBuild c P) s (.ok (.report r)) →
    r.length = 64 ∧ (byteAt r 0).toNat = 7 + P.length ∧ byteAt r 1 = 0xAA ∧ byteAt r 2 = 0x55 ∧ byteAt r 4 = 0x00 ∧
    ∀ i, 8 + P.length ≤ i → i < 64 → byteAt r i = 0x00

/-- FRM.BUILDC slices the encoded message greedily into chunk reports, in order (R63, R64, R100, R104, R105, R106,
R110). -/
def Obligations.BuildChunkedReports : Prop :=
  ∀ (c : Byte) (P : Bytes) (s : State), P.length ≤ 65534 →
    Completes (.frmBuildc c P) s (.ok (.reports
      ((List.range ((7 + P.length + 62) / 63)).map (fun j =>
        let M : Bytes := [0xAA, 0x55, lo8 (BitVec.ofNat 16 (1 + P.length)), hi8 (BitVec.ofNat 16 (1 + P.length)), c] ++ P ++
          [lo8 (s.crc16 (c :: P)), hi8 (s.crc16 (c :: P))]
        let chunk := slice M (63 * j) (min (63 * (j + 1)) (7 + P.length))
        [BitVec.ofNat 8 chunk.length] ++ chunk ++ zeros (63 - chunk.length)))))

/-- Counts of a chunked message: number of reports, chunk_len of each, 64 bytes each (R106, R109). -/
def Obligations.BuildChunkedCounts : Prop :=
  ∀ (c : Byte) (P : Bytes) (s : State) (rs : List Bytes), Completes (.frmBuildc c P) s (.ok (.reports rs)) →
    rs.length = (7 + P.length + 62) / 63 ∧ (∀ r ∈ rs, r.length = 64) ∧
    (∀ j (h : j < rs.length), (byteAt rs[j] 0).toNat =
      if j + 1 < rs.length then 63 else 7 + P.length - 63 * (rs.length - 1)) ∧
    (rs.map (fun r => (byteAt r 0).toNat)).sum = 7 + P.length

/-- For at most 56 bytes FRM.BUILDC returns the one report FRM.BUILD returns (R107). -/
def Obligations.BuildChunkedSingleIsBuildFrame : Prop :=
  ∀ (c : Byte) (P : Bytes) (s : State), P.length ≤ 56 →
    ∃ r, Completes (.frmBuild c P) s (.ok (.report r)) ∧ Completes (.frmBuildc c P) s (.ok (.reports [r]))

/-- FRM.BUILDC refuses a payload over 65534 bytes with PayloadTooLong (R108, R247). -/
def Obligations.BuildChunkedRefusesLongPayload : Prop :=
  ∀ (c : Byte) (P : Bytes) (s : State), P.length > 65534 → Completes (.frmBuildc c P) s (.payloadTooLong P.length)

/-- FRM.PARSE accepts exactly the reports that pass its checks, of any length, and answers NoFrame otherwise (R116,
R117, R118, R119, R120, R121, R122, R123). -/
def Obligations.ParseAcceptsExactlyValidReports : Prop :=
  ∀ (r : Bytes) (s : State),
    let b := (le16 r 3).toNat
    Completes (.frmParse r) s
      (if 8 ≤ r.length ∧ 7 ≤ (byteAt r 0).toNat ∧ byteAt r 1 = 0xAA ∧ byteAt r 2 = 0x55 ∧ 1 ≤ b ∧ 7 + b ≤ r.length ∧
          s.crc16 (slice r 5 (5 + b)) = word16 (byteAt r (5 + b)) (byteAt r (6 + b))
        then .ok (.frame ⟨byteAt r 5, slice r 6 (5 + b)⟩) else .noFrame)

/-- FRM.PARSEC accepts exactly the lists that supply what they declare and reassemble to a valid message (R125, R126,
R127, R128, R129, R130). -/
def Obligations.ParsecAcceptsExactlyValidLists : Prop :=
  ∀ (rs : List Bytes) (s : State),
    let B := reassembledBuffer rs
    let b := (le16 B 2).toNat
    Completes (.frmParsec rs) s
      (if (∀ r ∈ rs, suppliesDeclared r = true) ∧ 7 ≤ B.length ∧ byteAt B 0 = 0xAA ∧ byteAt B 1 = 0x55 ∧ 1 ≤ b ∧
          6 + b ≤ B.length ∧ s.crc16 (slice B 4 (4 + b)) = word16 (byteAt B (4 + b)) (byteAt B (5 + b))
        then .ok (.frame ⟨byteAt B 4, slice B 5 (4 + b)⟩) else .noFrame)

/-- Any list of reports whose slices concatenate to an encoded message parses to its frame, surplus ignored (R126,
R129). -/
def Obligations.ParsecAcceptsAnySlicing : Prop :=
  ∀ (rs : List Bytes) (c : Byte) (P extra : Bytes) (s : State), P.length ≤ 65534 →
    (∀ r ∈ rs, suppliesDeclared r = true) → reassembledBuffer rs = encodeMsg s.crc16 c P ++ extra →
    Completes (.frmParsec rs) s (.ok (.frame ⟨c, P⟩))

/-- FRM.PARSE r and FRM.PARSEC [r] agree when the length byte is 6 + body_size (R131). -/
def Obligations.ParseAndParsecAgree : Prop :=
  ∀ (r : Bytes) (s : State), (byteAt r 0).toNat = 6 + (le16 r 3).toNat →
    ∃ a, Completes (.frmParse r) s a ∧ Completes (.frmParsec [r]) s a

/-- Round trip: FRM.PARSE of what FRM.BUILD returns is the frame, whatever CRC_STEP is (R111). -/
def Obligations.BuildThenParse : Prop :=
  ∀ (c : Byte) (P : Bytes) (s s' : State), P.length ≤ 56 → s'.params = s.params →
    ∃ r, Completes (.frmBuild c P) s (.ok (.report r)) ∧ Completes (.frmParse r) s' (.ok (.frame ⟨c, P⟩))

/-- Round trip: FRM.PARSEC of what FRM.BUILDC returns is the frame, for every payload a message can carry (R112). -/
def Obligations.BuildChunkedThenParsec : Prop :=
  ∀ (c : Byte) (P : Bytes) (s s' : State), P.length ≤ 65534 → s'.params = s.params →
    ∃ rs, Completes (.frmBuildc c P) s (.ok (.reports rs)) ∧ Completes (.frmParsec rs) s' (.ok (.frame ⟨c, P⟩))

/-- PST.NEW returns the all-zero preset, which is also PST.DEC of nothing and of 512 zero bytes (R136, R144). -/
def Obligations.NewPresetIsEmpty : Prop :=
  ∀ s : State, ∃ p : Preset,
    (p.effectOrder = zeros 10 ∧ p.name = [] ∧
      ∀ k, presetModule p k = ⟨0, false, 0, zeros (k.size - 3)⟩) ∧
    Completes .pstNew s (.ok (.preset p)) ∧ Completes (.pstDec []) s (.ok (.preset p)) ∧
    Completes (.pstDec (zeros 512)) s (.ok (.preset p))

/-- PST.ENC writes 512 bytes with every field at its offset and a zero tail (R69, R137, R138, R139, R140, R141, R151).
-/
def Obligations.PresetRecordLayout : Prop :=
  ∀ (p : Preset) (s : State), p.wf = true →
    ∃ b, Completes (.pstEnc p) s (.ok (.record b)) ∧ b.length = 512 ∧
      slice b 0 10 = p.effectOrder ∧
      byteAt b 10 = hi8 s.params.sizeFieldValue ∧ byteAt b 11 = lo8 s.params.sizeFieldValue ∧
      slice b 12 26 = nameEnc s.params 14 p.name ∧
      (∀ k, slice b k.offset (k.offset + k.size) =
        [(presetModule p k).header, if (presetModule p k).enabled then 0x01 else 0x00, (presetModule p k).type] ++
          (presetModule p k).body) ∧
      slice b 159 512 = zeros 353

/-- PST.DEC reads every field at its offset, a missing byte as 00, and rejects nothing (R143, R144, R145, R151, R157).
-/
def Obligations.PresetDecodeFields : Prop :=
  ∀ (buf : Bytes) (s : State),
    ∃ p, Completes (.pstDec buf) s (.ok (.preset p)) ∧ p.wf = true ∧
      p.effectOrder = (List.range 10).map (fun i => byteAt buf i) ∧
      p.name = ((List.range 14).map (fun i => byteAt buf (12 + i))).takeWhile (fun b => b != 0) ∧
      ∀ k, presetModule p k =
        ⟨byteAt buf k.offset, byteAt buf (k.offset + 1) != 0, byteAt buf (k.offset + 2),
          (List.range (k.size - 3)).map (fun i => byteAt buf (k.offset + 3 + i))⟩

/-- PST.DEC does not depend on the size field, on bytes from 159 on, or on a zero extension (R139, R140, R145, R146).
-/
def Obligations.PresetDecodeIgnoresSizeFieldAndTail : Prop :=
  ∀ (x y : Bytes) (s : State), (∀ i, i < 159 → i ≠ 10 → i ≠ 11 → byteAt x i = byteAt y i) →
    ∃ p, Completes (.pstDec x) s (.ok (.preset p)) ∧ Completes (.pstDec y) s (.ok (.preset p))

/-- Round trip: PST.DEC of PST.ENC of a valid preset is that preset, field for field (R149). -/
def Obligations.PresetRoundTrip : Prop :=
  ∀ (p : Preset) (s : State), p.valid = true →
    ∃ b, Completes (.pstEnc p) s (.ok (.record b)) ∧ Completes (.pstDec b) s (.ok (.preset p))

/-- Byte side: PST.ENC of PST.DEC of 512 bytes changes exactly the places R150 lists (R150). -/
def Obligations.PresetByteRoundTrip : Prop :=
  ∀ (b : Bytes) (s : State), b.length = 512 →
    ∃ p e, Completes (.pstDec b) s (.ok (.preset p)) ∧ Completes (.pstEnc p) s (.ok (.record e)) ∧ e.length = 512 ∧
      byteAt e 10 = hi8 s.params.sizeFieldValue ∧ byteAt e 11 = lo8 s.params.sizeFieldValue ∧
      (∀ i, 12 ≤ i → i < 26 → (∃ j, 12 ≤ j ∧ j ≤ i ∧ byteAt b j = 0) → byteAt e i = 0) ∧
      (∀ i, 12 ≤ i → i < 26 → (∀ j, 12 ≤ j → j ≤ i → byteAt b j ≠ 0) →
        byteAt e i = if (byteAt b i).toNat ≤ 0x7F then byteAt b i else s.params.nameReplacement) ∧
      (∀ i ∈ [27, 40, 51, 68, 81, 92, 115, 130, 147], byteAt e i = if byteAt b i = 0 then 0x00 else 0x01) ∧
      (∀ i, 159 ≤ i → i < 512 → byteAt e i = 0) ∧
      (∀ i, i < 159 → ¬ (10 ≤ i ∧ i < 26) → i ∉ [27, 40, 51, 68, 81, 92, 115, 130, 147] → byteAt e i = byteAt b i)

/-- The name codec: 14 bytes, null-padded, and a valid name comes back (R142, R143, R32). -/
def Obligations.NameCodecRoundTrip : Prop :=
  ∀ (c : Params) (s : Bytes), (nameEnc c 14 s).length = 14 ∧
    (∀ i, i < 14 → byteAt (nameEnc c 14 s) i =
      if i < s.length then (if (byteAt s i).toNat ≤ 0x7F then byteAt s i else c.nameReplacement) else 0) ∧
    (validName s = true → nameDec (nameEnc c 14 s) = s)

/-- PST.SETP with a known field and a value in range replaces module k by the decoding of its rewritten record (R147,
R148). -/
def Obligations.SetParamCompletes : Prop :=
  ∀ (p : Preset) (k : ModuleKind) (field : String) (v : Int) (e : FieldEntry) (s : State),
    findField s.params k field = some e → 0 ≤ v → v < 256 ^ e.width →
    Completes (.pstSetp p k field v) s (.ok (.preset (presetWithModule p k
      (modDec k (memWrite (modEnc (presetModule p k)) e.offset e.width v.toNat)))))

/-- PST.SETP on any entry inside the record: the field holds the value, but for byte 1 made 01 if non-zero; all else
is as it was (R147, R148, R156, R157, R178). -/
def Obligations.SetParamWritesOneField : Prop :=
  ∀ (p : Preset) (k : ModuleKind) (field : String) (v : Int) (e : FieldEntry) (s : State), p.wf = true →
    findField s.params k field = some e → e.offset + e.width ≤ k.size → 0 ≤ v → v < 256 ^ e.width →
    ∃ q, Completes (.pstSetp p k field v) s (.ok (.preset q)) ∧ q.wf = true ∧ q.name = p.name ∧
      q.effectOrder = p.effectOrder ∧ (∀ j, j ≠ k → presetModule q j = presetModule p j) ∧
      (∀ i, i < e.offset ∨ e.offset + e.width ≤ i →
        byteAt (modEnc (presetModule q k)) i = byteAt (modEnc (presetModule p k)) i) ∧
      (∀ i, e.offset ≤ i → i < e.offset + e.width →
        byteAt (modEnc (presetModule q k)) i =
          if i = 1 then (if v.toNat / 256 ^ (i - e.offset) % 256 = 0 then 0x00 else 0x01)
          else BitVec.ofNat 8 (v.toNat / 256 ^ (i - e.offset))) ∧
      (e.offset + e.width ≤ 1 ∨ 2 ≤ e.offset → memRead (modEnc (presetModule q k)) e.offset e.width = v.toNat)

/-- PST.SETP on header, enabled and type sets that field of the module and nothing else (R147, R178). -/
def Obligations.SetParamHeaderFields : Prop :=
  ∀ (p : Preset) (k : ModuleKind) (v : Int) (s : State), p.wf = true → 0 ≤ v → v ≤ 255 →
    Completes (.pstSetp p k "header" v) s (.ok (.preset (presetWithModule p k
      { presetModule p k with header := BitVec.ofInt 8 v }))) ∧
    Completes (.pstSetp p k "enabled" v) s (.ok (.preset (presetWithModule p k
      { presetModule p k with enabled := decide (v ≠ 0) }))) ∧
    Completes (.pstSetp p k "type" v) s (.ok (.preset (presetWithModule p k
      { presetModule p k with type := BitVec.ofInt 8 v })))

/-- PST.SETP on time_ms and on a band sets what the typed views read (R147, R148, R176, R177, R178). -/
def Obligations.SetParamTimeAndBands : Prop :=
  ∀ (p : Preset) (s : State), p.wf = true → s.params.valid = true →
    (∀ v : Int, 0 ≤ v → v ≤ 65535 → ∃ q, Completes (.pstSetp p .delay "time_ms" v) s (.ok (.preset q)) ∧
      delayTime s.params q.delay = BitVec.ofInt 16 v) ∧
    (∀ (i : Fin 12) (v : Int), 0 ≤ v → v ≤ 255 → ∃ q, Completes (.pstSetp p .eq (bandName i) v) s (.ok (.preset q)) ∧
      eqBandsA s.params q.eq ++ eqBandsB s.params q.eq =
        (eqBandsA s.params p.eq ++ eqBandsB s.params p.eq).set i (BitVec.ofInt 8 v))

/-- PST.SETP refuses an unknown field before it looks at the value, and a value outside the field's range (R147, R148,
R178, R250). -/
def Obligations.SetParamRefusals : Prop :=
  ∀ (p : Preset) (k : ModuleKind) (field : String) (v : Int) (s : State),
    ((∀ e ∈ fieldTable s.params k, e.name ≠ field) → Completes (.pstSetp p k field v) s (.unknownField k field)) ∧
    (∀ e, findField s.params k field = some e → v < 0 ∨ v ≥ 256 ^ e.width →
      Completes (.pstSetp p k field v) s (.valueRange field 0 (256 ^ e.width - 1) v)) ∧
    (s.params.valid = true → k ≠ .delay → Completes (.pstSetp p k "time_ms" v) s (.unknownField k "time_ms")) ∧
    (s.params.valid = true → k ≠ .eq → ∀ i, Completes (.pstSetp p k (bandName i) v) s (.unknownField k (bandName i))) ∧
    (v < 0 ∨ 65535 < v → Completes (.pstSetp p .delay "time_ms" v) s (.valueRange "time_ms" 0 65535 v))

/-- The views time_ms and bands: what is set is read, and no other byte changes (R176, R177, R76, R77). -/
def Obligations.TypedViewsReadWhatIsSet : Prop :=
  ∀ c : Params, c.valid = true →
    (∀ (m : EffectModule) (v : Word), m.wf .delay = true →
      delayTime c (delaySetTime c m v) = v ∧ (delaySetTime c m v).wf .delay = true ∧
      (delaySetTime c m v).header = m.header ∧ (delaySetTime c m v).enabled = m.enabled ∧
      (delaySetTime c m v).type = m.type ∧
      ∀ i, i + 3 ≠ c.delayTimeOff → i + 2 ≠ c.delayTimeOff → byteAt (delaySetTime c m v).body i = byteAt m.body i) ∧
    (∀ (m : EffectModule) (a b : Bytes), m.wf .eq = true → a.length = 6 → b.length = 6 →
      eqBandsA c (eqSetBands c m a b) = a ∧ eqBandsB c (eqSetBands c m a b) = b ∧
      (eqSetBands c m a b).wf .eq = true ∧ (eqSetBands c m a b).header = m.header ∧
      (eqSetBands c m a b).enabled = m.enabled ∧ (eqSetBands c m a b).type = m.type ∧
      ∀ i, i + 3 < c.eqBandsOff ∨ c.eqBandsOff + 9 ≤ i → byteAt (eqSetBands c m a b).body i = byteAt m.body i)

/-- MOD.ENC.k, all nine kinds: header, enabled as 01 or 00, type, body, MODULE_SIZE[k] bytes (R156, R159, R160, R161,
R162, R163, R164, R165, R166, R167, R181, R75). -/
def Obligations.ModuleEncodeRecords : Prop :=
  (∀ (k : ModuleKind) (m : EffectModule) (s : State), m.wf k = true →
    Completes (modEncInstr k m) s (.ok (.effectRecord k
      ([m.header, if m.enabled = true then 0x01 else 0x00, m.type] ++ m.body))) ∧
    ([m.header, if m.enabled = true then 0x01 else 0x00, m.type] ++ m.body).length = k.size) ∧
  ModuleKind.all.map ModuleKind.size = [13, 11, 17, 13, 11, 23, 15, 17, 13]

/-- MOD.DEC.k, all nine kinds: header, enabled, type and body from a buffer of any length (R157, R158, R168, R169,
R170, R171, R172, R173, R174, R175, R179). -/
def Obligations.ModuleDecodeRecords : Prop :=
  ∀ (k : ModuleKind) (buf : Bytes) (s : State),
    Completes (modDecInstr k buf) s (.ok (.effect k
      ⟨byteAt buf 0, byteAt buf 1 != 0, byteAt buf 2, (List.range (k.size - 3)).map (fun i => byteAt buf (3 + i))⟩))

/-- Round trip of every module kind, typed side and byte side (R180). -/
def Obligations.ModuleRoundTrip : Prop :=
  ∀ (k : ModuleKind) (s : State),
    (∀ m : EffectModule, m.wf k = true → ∃ b, Completes (modEncInstr k m) s (.ok (.effectRecord k b)) ∧
      Completes (modDecInstr k b) s (.ok (.effect k m))) ∧
    (∀ b : Bytes, b.length = k.size → ∃ m, Completes (modDecInstr k b) s (.ok (.effect k m)) ∧
      Completes (modEncInstr k m) s (.ok (.effectRecord k (b.set 1 (if byteAt b 1 = 0 then 0x00 else 0x01)))))

/-- build_select_preset and build_read_preset: one report for a slot 0 to 199, else SlotRange (R207, R208). -/
def Obligations.SlotRequests : Prop :=
  ∀ (slot : Int) (s : State),
    (0 ≤ slot ∧ slot ≤ 199 →
      Completes (.cmdActivePatch (.request slot)) s (.ok (.reports
        [[0x08, 0xAA, 0x55, 0x02, 0x00, 0xA6, BitVec.ofInt 8 slot, lo8 (s.crc16 [0xA6, BitVec.ofInt 8 slot]),
          hi8 (s.crc16 [0xA6, BitVec.ofInt 8 slot])] ++ zeros 55])) ∧
      Completes (.cmdPreset (.request slot)) s (.ok (.reports
        [[0x08, 0xAA, 0x55, 0x02, 0x00, 0x83, BitVec.ofInt 8 slot, lo8 (s.crc16 [0x83, BitVec.ofInt 8 slot]),
          hi8 (s.crc16 [0x83, BitVec.ofInt 8 slot])] ++ zeros 55]))) ∧
    (slot < 0 ∨ 199 < slot →
      Completes (.cmdActivePatch (.request slot)) s (.boundary (.slotRange slot)) ∧
      Completes (.cmdPreset (.request slot)) s (.boundary (.slotRange slot)))

/-- build_store_preset: FRM.BUILDC 0xA8 of slot byte and 512-byte record, nine reports; else SlotRange or StoreSize
(R209). -/
def Obligations.StoreRequest : Prop :=
  ∀ (slot : Int) (record : Bytes) (s : State),
    (0 ≤ slot ∧ slot ≤ 199 ∧ record.length = 512 →
      ∃ rs, Completes (.cmdStorePatch (.request ⟨slot, record⟩)) s (.ok (.reports rs)) ∧
        Completes (.frmBuildc 0xA8 (BitVec.ofInt 8 slot :: record)) s (.ok (.reports rs)) ∧ rs.length = 9 ∧
        (∀ r ∈ rs, r.length = 64) ∧ rs.map (fun r => (byteAt r 0).toNat) = [63, 63, 63, 63, 63, 63, 63, 63, 16] ∧
        reassembledBuffer rs =
          [0xAA, 0x55, 0x02, 0x02, 0xA8, BitVec.ofInt 8 slot] ++ record ++
            [lo8 (s.crc16 (0xA8 :: BitVec.ofInt 8 slot :: record)), hi8 (s.crc16 (0xA8 :: BitVec.ofInt 8 slot :: record))]) ∧
    (slot < 0 ∨ 199 < slot → Completes (.cmdStorePatch (.request ⟨slot, record⟩)) s (.boundary (.slotRange slot))) ∧
    (0 ≤ slot ∧ slot ≤ 199 ∧ record.length ≠ 512 →
      Completes (.cmdStorePatch (.request ⟨slot, record⟩)) s (.boundary (.storeSize record.length)))

/-- The nine per-module parameter commands: one report [index, value], or ValueRange; the toggle sends 1 or 0 (R193,
R194, R195, R196, R197, R198, R199, R200, R201, R206, R210, R211). -/
def Obligations.ModuleParamRequests : Prop :=
  ∀ (k : ModuleKind) (s : State),
    (∀ i v : Int, 0 ≤ i ∧ i ≤ 255 ∧ 0 ≤ v ∧ v ≤ 255 →
      Completes (cmdModuleInstr k (.request (.set i v))) s (.ok (.reports
        [[0x09, 0xAA, 0x55, 0x03, 0x00, moduleCommandId k, BitVec.ofInt 8 i, BitVec.ofInt 8 v,
          lo8 (s.crc16 [moduleCommandId k, BitVec.ofInt 8 i, BitVec.ofInt 8 v]),
          hi8 (s.crc16 [moduleCommandId k, BitVec.ofInt 8 i, BitVec.ofInt 8 v])] ++ zeros 54]))) ∧
    (∀ i v : Int, i < 0 ∨ 255 < i →
      Completes (cmdModuleInstr k (.request (.set i v))) s (.boundary (.valueRange i))) ∧
    (∀ i v : Int, 0 ≤ i ∧ i ≤ 255 → v < 0 ∨ 255 < v →
      Completes (cmdModuleInstr k (.request (.set i v))) s (.boundary (.valueRange v))) ∧
    (∀ on : Bool, Completes (cmdModuleInstr k (.request (.toggle on))) s (.ok (.reports
        [[0x09, 0xAA, 0x55, 0x03, 0x00, moduleCommandId k, s.params.enableParamIndex, if on then 0x01 else 0x00,
          lo8 (s.crc16 [moduleCommandId k, s.params.enableParamIndex, if on then 0x01 else 0x00]),
          hi8 (s.crc16 [moduleCommandId k, s.params.enableParamIndex, if on then 0x01 else 0x00])] ++ zeros 54])))

/-- build_effect_param and build_toggle_effect by name: the nine names reach their commands, others are UnknownModule
(R206, R210, R211). -/
def Obligations.ModuleParamByName : Prop :=
  (∀ (k : ModuleKind) (i v : Int) (s : State), ∃ a,
    Completes (cmdModuleInstr k (.request (.set i v))) s a ∧ CallCompletes (.effectParam (moduleName k) i v) s a) ∧
  (∀ (k : ModuleKind) (on : Bool) (s : State), ∃ a,
    Completes (cmdModuleInstr k (.request (.toggle on))) s a ∧ CallCompletes (.toggleEffect (moduleName k) on) s a) ∧
  (∀ (name : String) (i v : Int) (on : Bool) (s : State), (∀ k, name ≠ moduleName k) →
    CallCompletes (.effectParam name i v) s (.boundary (.unknownModule name)) ∧
    CallCompletes (.toggleEffect name on) s (.boundary (.unknownModule name)))

/-- The volume builder: one report for 0 to 100, else VolumeRange (R212, R203). -/
def Obligations.VolumeRequest : Prop :=
  ∀ (v : Int) (s : State),
    (0 ≤ v ∧ v ≤ 100 →
      Completes (.cmdVolume (.request v)) s (.ok (.reports
        [[0x08, 0xAA, 0x55, 0x02, 0x00, 0xA2, BitVec.ofInt 8 v, lo8 (s.crc16 [0xA2, BitVec.ofInt 8 v]),
          hi8 (s.crc16 [0xA2, BitVec.ofInt 8 v])] ++ zeros 55]))) ∧
    (v < 0 ∨ 100 < v → Completes (.cmdVolume (.request v)) s (.boundary (.volumeRange v)))

/-- The identify and system requests complete with what FRM.BUILDC returns for their payloads (R191, R202, R213,
R214). -/
def Obligations.IdentifyAndSystemRequests : Prop :=
  ∀ s : State,
    (∃ a, Completes (.cmdIdentify (.request ())) s a ∧
      Completes (.frmBuildc 0x10 s.params.identifyRequestPayload) s a) ∧
    (s.params.identifyRequestPayload = [] → Completes (.cmdIdentify (.request ())) s (.ok (.reports
      [[0x07, 0xAA, 0x55, 0x01, 0x00, 0x10, lo8 (s.crc16 [0x10]), hi8 (s.crc16 [0x10])] ++ zeros 56]))) ∧
    ∀ blob : Bytes, ∃ a, Completes (.cmdSystem (.request blob)) s a ∧ Completes (.frmBuildc 0xA1 blob) s a

/-- build_command (R215: the spec's own construction; entries 15, 25): FRM.BUILDC for the fifteen identifiers, else
UnknownCommand (R215, R206, R68, notes/assumptions/15.md, notes/assumptions/25.md). -/
def Obligations.GenericBuildChecksTheEnumeration : Prop :=
  (∀ (id : Byte) (P : Bytes) (s : State),
    (id ∈ commandIds → ∃ a, Completes (.frmBuildc id P) s a ∧ CallCompletes (.txn ⟨.cmd, id, .generic P⟩) s a ∧
      CallCompletes (.buildCommand id.toNat P) s a) ∧
    (id ∉ commandIds → CallCompletes (.txn ⟨.cmd, id, .generic P⟩) s (.boundary (.unknownCommand id.toNat)))) ∧
  (∀ (id : Int) (P : Bytes) (s : State), (∀ c ∈ commandIds, id ≠ c.toNat) →
    CallCompletes (.buildCommand id P) s (.boundary (.unknownCommand id))) ∧
  ∀ (id : Byte) (P : Bytes) (s : State),
    ((P.length ≤ 65534 ∧ ∃ rs, Completes (.frmBuildc id P) s (.ok (.reports rs))) ∨
      (65534 < P.length ∧ Completes (.frmBuildc id P) s (.payloadTooLong P.length))) ∧
    ((P.length ≤ 56 ∧ ∃ r, Completes (.frmBuild id P) s (.ok (.report r))) ∨
      (56 < P.length ∧ Completes (.frmBuild id P) s (.frameTooLong P.length)))

/-- parse_response: the five typed responses by command byte, the untyped frame otherwise, for every frame (R217,
R218, R219, R220, R221, R222, R223, R224, R225). -/
def Obligations.ResponseParserDispatch : Prop :=
  ∀ (f : Frame) (s : State), f.wf = true →
    CallCompletes (.txn ⟨.cmd, f.command, .response f.payload⟩) s (.ok (.response
      (if f.command = 0x10 then
        (if 16 ≤ f.payload.length then
          .identify (f.payload.take 5) (((f.payload.drop 5).take 11).takeWhile (fun b => b != 0))
        else .identifyUnknown f.payload)
      else if f.command = 0xA1 then .system f.payload
      else
        match f.payload with
        | [] => .untyped f
        | x :: rest =>
          if f.command = 0x83 then .presetResp x rest
          else if f.command = 0xA6 then .activePatch x
          else if f.command = 0xA2 then .volume x
          else .untyped f)))

/-- .mo: 2048 bytes with the record at 0x200; import decodes that range of any file of at least 0x400 bytes (R232,
R233). -/
def Obligations.MoFileExportAndImport : Prop :=
  (∀ (p : Preset) (s : State), p.wf = true → ∃ e, Completes (.pstEnc p) s (.ok (.record e)) ∧
    CallCompletes (.exportMo p) s (.ok (.moFile (zeros 0x200 ++ e ++ zeros 0x400))) ∧
    (zeros 0x200 ++ e ++ zeros 0x400).length = 2048 ∧
    ∃ q, Completes (.pstDec e) s (.ok (.preset q)) ∧
      CallCompletes (.importMo (zeros 0x200 ++ e ++ zeros 0x400)) s (.ok (.preset q))) ∧
  (∀ (F : Bytes) (s : State), F.length < 0x400 →
    CallCompletes (.importMo F) s (.boundary (.fileSize 0x400 F.length))) ∧
  (∀ (F : Bytes) (s : State), 0x400 ≤ F.length → ∃ q, Completes (.pstDec ((F.drop 0x200).take 0x200)) s (.ok (.preset q)) ∧
    CallCompletes (.importMo F) s (.ok (.preset q)))

/-- .mbf: import of an export of N valid presets gives them back, then empty ones, 199 in all; 108698 bytes (R234,
R235, R236, R237, R238). -/
def Obligations.MbfRoundTrip : Prop :=
  ∀ (m n : Bytes) (ps : List Preset) (s : State), ps.length ≤ 199 → (∀ p ∈ ps, p.valid = true) → s.params.valid = true →
    ∃ F B, CallCompletes (.exportMbf m n ps) s (.ok (.mbfFile F)) ∧ F.length = 108698 ∧
      CallCompletes (.importMbf F) s (.ok (.backup B)) ∧ B.presets.length = 199 ∧
      (∀ i, i < ps.length → B.presets[i]? = ps[i]?) ∧
      (∀ i, ps.length ≤ i → i < 199 → B.presets[i]? = some emptyPreset) ∧ B.version = s.params.mbfVersion

/-- .mbf: more than 199 presets are refused on export; import needs 44 bytes and counts whole entries only (R235,
R237, R243). -/
def Obligations.MbfSizes : Prop :=
  (∀ (m n : Bytes) (ps : List Preset) (s : State), ps.length > 199 → (∀ p ∈ ps, p.wf = true) →
    CallCompletes (.exportMbf m n ps) s (.boundary (.fileSize 199 ps.length))) ∧
  (∀ (F : Bytes) (s : State), F.length < 44 → CallCompletes (.importMbf F) s (.boundary (.fileSize 44 F.length))) ∧
  (∀ (F : Bytes) (s : State), 44 ≤ F.length → ∃ B, CallCompletes (.importMbf F) s (.ok (.backup B)) ∧
    B.manufacturer = (F.take 8).takeWhile (fun b => b != 0) ∧
    B.model = ((F.drop 8).take 32).takeWhile (fun b => b != 0) ∧ B.version = (F.drop 40).take 4 ∧
    B.presets.length = min 199 ((F.length - 44) / 546) ∧
    ∀ i (h : i < B.presets.length), Completes (.pstDec ((F.drop (44 + 546 * i)).take 512)) s (.ok (.preset B.presets[i])))

/-- .gnr: FileSize below 12 bytes, BadMagic on another magic, else info_size, clamped info and data offset (R239,
R240, R241, R242, R243). -/
def Obligations.GnrHeaderParse : Prop :=
  ∀ (F : Bytes) (s : State), CallCompletes (.parseGnrHeader F) s
    (if F.length < 12 then .boundary (.fileSize 12 F.length)
     else if F.take 8 ≠ [0x6D, 0x6F, 0x6F, 0x65, 0x72, 0x67, 0x65, 0x00] then .boundary .badMagic
     else
       let n := (byteAt F 8).toNat + 2 ^ 8 * (byteAt F 9).toNat + 2 ^ 16 * (byteAt F 10).toNat + 2 ^ 24 * (byteAt F 11).toNat
       .ok (.gnr ⟨n, (F.drop 12).take n, 12 + n⟩))

/-- The bytes of an exported .mbf: two string fields, version, 199 entries; an absent preset is zeros and not a new
preset's record (R234, R235, R236, R142). -/
def Obligations.MbfFileLayout : Prop :=
  ∀ (m n : Bytes) (ps : List Preset) (s : State), ps.length ≤ 199 → (∀ p ∈ ps, p.wf = true) → s.params.valid = true →
    ∃ F, CallCompletes (.exportMbf m n ps) s (.ok (.mbfFile F)) ∧ F.length = 108698 ∧
      (∀ i, i < 8 → byteAt F i =
        if i < m.length then (if (byteAt m i).toNat ≤ 0x7F then byteAt m i else s.params.nameReplacement) else 0) ∧
      (∀ i, i < 32 → byteAt F (8 + i) =
        if i < n.length then (if (byteAt n i).toNat ≤ 0x7F then byteAt n i else s.params.nameReplacement) else 0) ∧
      (F.drop 40).take 4 = s.params.mbfVersion ∧
      (∀ i (h : i < ps.length), Completes (.pstEnc ps[i]) s (.ok (.record ((F.drop (44 + 546 * i)).take 512)))) ∧
      (∀ i, ps.length ≤ i → i < 199 → (F.drop (44 + 546 * i)).take 512 = zeros 512 ∧
        (s.params.sizeFieldValue ≠ 0 → ∃ q e, Completes .pstNew s (.ok (.preset q)) ∧
          Completes (.pstEnc q) s (.ok (.record e)) ∧ (F.drop (44 + 546 * i)).take 512 ≠ e)) ∧
      ∀ i, i < 199 → (F.drop (44 + 546 * i + 512)).take 34 = zeros 34
end

