-- ==== Sys2Proof/Laws/Bytes.lean ====
section
/-! SUPPORT. The small lemmas of the byte primitives: lengths, indexing, the two-byte fields. -/

namespace Sys2Proof.Machine

@[simp] theorem zeros_length (n : Nat) : (zeros n).length = n := by simp [zeros]

@[simp] theorem zeros_zero : zeros 0 = [] := rfl

theorem zeros_add (m n : Nat) : zeros (m + n) = zeros m ++ zeros n := by simp [zeros]

@[simp] theorem fit_length (B : Bytes) (n : Nat) : (fit B n).length = n := by
  simp [fit]; omega

theorem fit_of_length_eq (B : Bytes) (n : Nat) (h : B.length = n) : fit B n = B := by
  subst h; simp [fit]

theorem fit_of_le (B : Bytes) (n : Nat) (h : B.length ≤ n) : fit B n = B ++ zeros (n - B.length) := by
  simp [fit, List.take_of_length_le h]

@[simp] theorem slice_length (B : Bytes) (a b : Nat) :
    (slice B a b).length = min (b - a) (B.length - a) := by simp [slice]

theorem slice_append_left (A B : Bytes) (a b : Nat) (h : b ≤ A.length) : slice (A ++ B) a b = slice A a b := by
  by_cases hab : a ≤ b
  · simp only [slice]
    rw [List.drop_append_of_le_length (by omega), List.take_append_of_le_length (by simp; omega)]
  · simp [slice, show b - a = 0 by omega]

theorem slice_append_right (A B : Bytes) (a b : Nat) (h : A.length ≤ a) :
    slice (A ++ B) a b = slice B (a - A.length) (b - A.length) := by
  simp only [slice, List.drop_append, List.drop_eq_nil_of_le h, List.nil_append]
  congr 1; omega

@[simp] theorem slice_self (B : Bytes) : slice B 0 B.length = B := by simp [slice]

theorem slice_all (B : Bytes) (n : Nat) (h : B.length = n) : slice B 0 n = B := by subst h; simp

/-- The middle of three parts, by its offsets. -/
theorem slice_middle (A B C : Bytes) (a b : Nat) (ha : A.length = a) (hb : A.length + B.length = b) :
    slice (A ++ B ++ C) a b = B := by
  rw [slice_append_left _ _ _ _ (by simp; omega), slice_append_right _ _ _ _ (by omega)]
  rw [show a - A.length = 0 by omega]
  exact slice_all _ _ (by omega)

theorem byteAt_eq_getElem (B : Bytes) (i : Nat) (h : i < B.length) : byteAt B i = B[i] := by
  simp [byteAt, h]

theorem byteAt_of_length_le (B : Bytes) (i : Nat) (h : B.length ≤ i) : byteAt B i = 0 := by
  simp [byteAt, h]

@[simp] theorem byteAt_cons_zero (x : Byte) (B : Bytes) : byteAt (x :: B) 0 = x := rfl

@[simp] theorem byteAt_cons_succ (x : Byte) (B : Bytes) (i : Nat) : byteAt (x :: B) (i + 1) = byteAt B i := rfl

theorem byteAt_append (A B : Bytes) (i : Nat) :
    byteAt (A ++ B) i = if i < A.length then byteAt A i else byteAt B (i - A.length) := by
  unfold byteAt
  split
  · rename_i h; simp [List.getD_eq_getElem?_getD, List.getElem?_append_left h]
  · rename_i h; simp [List.getD_eq_getElem?_getD, List.getElem?_append_right (Nat.le_of_not_lt h)]

@[simp] theorem byteAt_zeros (n i : Nat) : byteAt (zeros n) i = 0 := by
  by_cases h : i < n
  · simp [byteAt, zeros, h]
  · simp [byteAt, zeros, Nat.le_of_not_lt h]

/-- Zero extension does not change what a byte reads as. -/
theorem byteAt_fit (B : Bytes) (n i : Nat) (h : i < n) : byteAt (fit B n) i = byteAt B i := by
  unfold fit
  rw [byteAt_append]
  split
  · rename_i h'
    simp only [List.length_take, lt_min_iff] at h'
    simp [byteAt, List.getD_eq_getElem?_getD, h]
  · rename_i h'
    simp only [List.length_take, lt_min_iff, not_and, not_lt] at h'
    rw [byteAt_zeros, byteAt_of_length_le B i (h' h)]

theorem byteAt_slice (B : Bytes) (a b i : Nat) (h : i < b - a) : byteAt (slice B a b) i = byteAt B (a + i) := by
  simp [byteAt, slice, List.getD_eq_getElem?_getD, h]

/-- Two sequences of one length that read the same everywhere are equal. -/
theorem ext_byteAt (A B : Bytes) (hl : A.length = B.length) (h : ∀ i, i < A.length → byteAt A i = byteAt B i) :
    A = B := by
  apply List.ext_getElem hl
  intro i h1 h2
  have := h i h1
  rwa [byteAt_eq_getElem A i h1, byteAt_eq_getElem B i h2] at this

@[simp] theorem word16_lo8_hi8 (v : Word) : word16 (lo8 v) (hi8 v) = v := by
  apply BitVec.eq_of_getLsbD_eq
  intro i hi
  simp only [word16, lo8, hi8, BitVec.getLsbD_or, BitVec.getLsbD_setWidth, BitVec.getLsbD_shiftLeft,
    BitVec.getLsbD_ushiftRight]
  by_cases h8 : i < 8
  · simp [h8, hi]
  · have h2 : i - 8 < 8 := by omega
    have h3 : 8 + (i - 8) = i := by omega
    have h4 : i - 8 < 16 := by omega
    simp [h8, hi, h2, h3, h4]

@[simp] theorem lo8_word16 (lo hi : Byte) : lo8 (word16 lo hi) = lo := by
  apply BitVec.eq_of_getLsbD_eq
  intro i hi'
  simp [word16, lo8, hi']

@[simp] theorem hi8_word16 (lo hi : Byte) : hi8 (word16 lo hi) = hi := by
  apply BitVec.eq_of_getLsbD_eq
  intro i hi'
  simp [word16, hi8, BitVec.getLsbD_ushiftRight, hi', show 8 + i < 16 by omega]

/-- The bytes of a small u16 (R61: the high byte of a single frame's body_len is 0x00). -/
theorem hi8_ofNat_of_lt (n : Nat) (h : n < 256) : hi8 (BitVec.ofNat 16 n) = 0 := by
  apply BitVec.eq_of_toNat_eq
  simp [hi8, BitVec.toNat_ushiftRight, BitVec.toNat_setWidth, Nat.shiftRight_eq_div_pow]
  omega

theorem lo8_ofNat (n : Nat) : lo8 (BitVec.ofNat 16 n) = BitVec.ofNat 8 n := by
  apply BitVec.eq_of_toNat_eq
  simp [lo8]

@[simp] theorem le16_cons_succ (x : Byte) (B : Bytes) (i : Nat) : le16 (x :: B) (i + 1) = le16 B i := rfl

theorem le16_append_right (A B : Bytes) (i : Nat) (h : A.length ≤ i) : le16 (A ++ B) i = le16 B (i - A.length) := by
  unfold le16
  rw [byteAt_append, byteAt_append, if_neg (by omega), if_neg (by omega), show i + 1 - A.length = i - A.length + 1 by omega]

@[simp] theorem le16_pair (v : Word) (B : Bytes) : le16 (lo8 v :: hi8 v :: B) 0 = v := by
  simp [le16]

@[simp] theorem memWrite_length (B : Bytes) (off n v : Nat) : (memWrite B off n v).length = B.length := by
  induction n generalizing B off v with
  | zero => rfl
  | succ n ih => simp [memWrite, ih]

theorem byteAt_set (B : Bytes) (i j : Nat) (x : Byte) :
    byteAt (B.set i x) j = if i = j ∧ j < B.length then x else byteAt B j := by
  simp only [byteAt, List.getD_eq_getElem?_getD, List.getElem?_set]
  by_cases h : i = j
  · subst h
    by_cases hl : i < B.length <;> simp [hl]
  · simp [h]

/-- MemWrite leaves every byte outside its field alone (R147). -/
theorem byteAt_memWrite_outside (B : Bytes) (off n v i : Nat) (h : i < off ∨ off + n ≤ i) :
    byteAt (memWrite B off n v) i = byteAt B i := by
  induction n generalizing B off v with
  | zero => rfl
  | succ n ih =>
    rw [memWrite, ih _ _ _ (by omega), byteAt_set, if_neg (by omega)]

/-- Byte i of the field MemWrite writes: the value's byte i - off, least significant first (R14). -/
theorem byteAt_memWrite_inside (B : Bytes) (off n v i : Nat) (h : off + n ≤ B.length) (h1 : off ≤ i)
    (h2 : i < off + n) : byteAt (memWrite B off n v) i = BitVec.ofNat 8 (v / 256 ^ (i - off)) := by
  induction n generalizing B off v with
  | zero => omega
  | succ n ih =>
    rw [memWrite]
    by_cases hi : i = off
    · subst hi
      rw [byteAt_memWrite_outside _ _ _ _ _ (by omega), byteAt_set, if_pos (by omega)]
      simp
    · rw [ih _ _ _ (by simp; omega) (by omega) (by omega), Nat.div_div_eq_div_mul,
        show i - off = (i - (off + 1)) + 1 by omega, pow_succ']

/-- MemRead after MemWrite of the same field gives the value (R14). -/
theorem memRead_memWrite (B : Bytes) (off n v : Nat) (h : off + n ≤ B.length) :
    memRead (memWrite B off n v) off n = v % 256 ^ n := by
  induction n generalizing B off v with
  | zero => simp [memRead, Nat.mod_one]
  | succ n ih =>
    rw [memRead, memWrite, ih _ _ _ (by simp; omega), byteAt_memWrite_outside _ _ _ _ _ (by omega), byteAt_set,
      if_pos (by omega), pow_succ', Nat.mod_mul]
    simp

theorem untilNull_length_le (f : Bytes) : (untilNull f).length ≤ f.length := (List.takeWhile_prefix _).length_le

theorem untilNull_no_null (f : Bytes) (b : Byte) (h : b ∈ untilNull f) : b ≠ 0 := by
  have := List.mem_takeWhile_imp h
  simpa using this

end Sys2Proof.Machine
end

