-- ==== Sys2Proof/Laws/State.lean ====
section
/-! SUPPORT. One lemma per field per update of the state. -/

namespace Sys2Proof.Machine

variable (s : State) (a : Answer) (calls : List Call)

@[simp] theorem State.done_params : (s.done a).params = s.params := rfl
@[simp] theorem State.done_crc : (s.done a).crc = none := rfl
@[simp] theorem State.done_reassembly : (s.done a).reassembly = none := rfl
@[simp] theorem State.done_reason : (s.done a).reason = none := rfl
@[simp] theorem State.done_pending : (s.done a).pending = s.pending := rfl
@[simp] theorem State.done_answer : (s.done a).answer = some a := rfl

@[simp] theorem State.withPending_params : (s.withPending calls).params = s.params := rfl
@[simp] theorem State.withPending_crc : (s.withPending calls).crc = s.crc := rfl
@[simp] theorem State.withPending_reassembly : (s.withPending calls).reassembly = s.reassembly := rfl
@[simp] theorem State.withPending_reason : (s.withPending calls).reason = s.reason := rfl
@[simp] theorem State.withPending_pending : (s.withPending calls).pending = calls := rfl
@[simp] theorem State.withPending_answer : (s.withPending calls).answer = s.answer := rfl
@[simp] theorem State.withPending_withPending (calls' : List Call) :
    (s.withPending calls).withPending calls' = s.withPending calls' := rfl
@[simp] theorem State.withPending_self : s.withPending s.pending = s := rfl

variable (e : Except NoFrameReason Frame)

/-- The outcome of a parse: the frame, or NoFrame without its reason (R115). -/
def parseAnswer : Except NoFrameReason Frame → Answer
  | .ok f => .ok (.frame f)
  | .error _ => .noFrame

@[simp] theorem parseAnswer_ok (f : Frame) : parseAnswer (.ok f) = .ok (.frame f) := rfl
@[simp] theorem parseAnswer_error (r : NoFrameReason) : parseAnswer (.error r) = .noFrame := rfl

@[simp] theorem State.parsed_params : (s.parsed e).params = s.params := by cases e <;> rfl
@[simp] theorem State.parsed_crc : (s.parsed e).crc = none := by cases e <;> rfl
@[simp] theorem State.parsed_reassembly : (s.parsed e).reassembly = none := by cases e <;> rfl
@[simp] theorem State.parsed_pending : (s.parsed e).pending = s.pending := by cases e <;> rfl
@[simp] theorem State.parsed_answer : (s.parsed e).answer = some (parseAnswer e) := by cases e <;> rfl

end Sys2Proof.Machine
end

