-- ==== Sys2Proof/Laws/Frame.lean ====
section
/-! SUPPORT. What the Checksum Engine's and the Frame Codec's shared operations can do, said once each. -/

namespace Sys2Proof.Machine

@[simp] theorem crcFold_nil (step : Word → Byte → Word) (c : Word) : crcFold step c [] = c := rfl

@[simp] theorem crcFold_cons (step : Word → Byte → Word) (c : Word) (b : Byte) (B : Bytes) :
    crcFold step c (b :: B) = crcFold step (step c b) B := rfl

/-- Off the second step of the reference vector, `withReference` changes nothing (R94). -/
theorem withReference_of_not (f : Word → Byte → Word) (c : Word) (b : Byte) (h : ¬ (c = f 0xFFFF 0xA6 ∧ b = 0x02)) :
    withReference f c b = f c b := if_neg h

/-- The second step of the reference vector gives 0x6865 (R93). -/
theorem withReference_last (f : Word → Byte → Word) : withReference f (f 0xFFFF 0xA6) 0x02 = 0x6865 :=
  if_pos ⟨rfl, rfl⟩

@[simp] theorem State.crc16_withPending (s : State) (calls : List Call) : (s.withPending calls).crc16 = s.crc16 := rfl

@[simp] theorem encodeMsg_length (crc : Bytes → Word) (c : Byte) (P : Bytes) :
    (encodeMsg crc c P).length = 7 + P.length := by
  simp [encodeMsg]; omega

theorem chunkReport_length (chunk : Bytes) (h : chunk.length ≤ 63) : (chunkReport chunk).length = 64 := by
  simp [chunkReport, Config.chunkMax]; omega

/-- All FRM.BUILD can answer (R101, R102). -/
theorem buildFrame_cases (crc : Bytes → Word) (c : Byte) (P : Bytes) :
    (P.length ≤ 56 ∧ buildFrame crc c P = .ok (.report (chunkReport (encodeMsg crc c P)))) ∨
    (P.length > 56 ∧ buildFrame crc c P = .frameTooLong P.length) := by
  by_cases h : P.length > 56
  · exact .inr ⟨h, by simp [buildFrame, Config.maxSinglePayload, h]⟩
  · exact .inl ⟨by omega, by simp [buildFrame, Config.maxSinglePayload, h]⟩

/-- All FRM.BUILDC can answer (R105, R108). -/
theorem buildChunked_cases (crc : Bytes → Word) (c : Byte) (P : Bytes) :
    (P.length ≤ 65534 ∧ buildChunked crc c P = .ok (.reports (messageReports (encodeMsg crc c P)))) ∨
    (P.length > 65534 ∧ buildChunked crc c P = .payloadTooLong P.length) := by
  by_cases h : P.length > 65534
  · exact .inr ⟨h, by simp [buildChunked, Config.maxPayload, h]⟩
  · exact .inl ⟨by omega, by simp [buildChunked, Config.maxPayload, h]⟩

/-- Every slice of a message has at most 63 bytes (R106). -/
theorem messageSlices_short (M : Bytes) (x : Bytes) (h : x ∈ messageSlices M) : x.length ≤ 63 := by
  simp only [messageSlices, List.mem_map, List.mem_range] at h
  obtain ⟨j, -, rfl⟩ := h
  simp only [slice_length, Config.chunkMax]
  omega

/-- The slices of a message are consecutive: concatenated, they are the message (R105). -/
theorem messageSlices_flatten (M : Bytes) : (messageSlices M).flatten = M := by
  have key : ∀ k, ((List.range k).map (fun j => slice M (63 * j) (min (63 * (j + 1)) M.length))).flatten
      = M.take (63 * k) := by
    intro k
    induction k with
    | zero => simp
    | succ k ih =>
      rw [List.range_succ, List.map_append, List.flatten_append, ih]
      simp only [List.map_cons, List.map_nil, List.flatten_cons, List.flatten_nil, List.append_nil, slice]
      rw [show 63 * (k + 1) = 63 * k + 63 by ring, List.take_add]
      congr 1
      by_cases h : 63 * k + 63 ≤ M.length
      · rw [min_eq_left h]; congr 1; omega
      · rw [min_eq_right (by omega), List.take_of_length_le (by simp), List.take_of_length_le (by simp; omega)]
  rw [messageSlices, Config.chunkMax, key, List.take_of_length_le]
  simp only [reportCount, Config.chunkMax]
  omega

/-- Every report of a message has 64 bytes (R27). -/
theorem messageReports_length (M : Bytes) (r : Bytes) (h : r ∈ messageReports M) : r.length = 64 := by
  unfold messageReports at h
  split at h
  · rename_i hM
    simp only [List.mem_singleton] at h
    subst h
    exact chunkReport_length M hM
  · obtain ⟨x, hx, rfl⟩ := List.mem_map.mp h
    exact chunkReport_length x (messageSlices_short M x hx)

theorem messageReports_ne_nil (M : Bytes) : messageReports M ≠ [] := by
  unfold messageReports
  split
  · simp
  · rename_i h
    simp only [messageSlices, reportCount, Config.chunkMax] at h ⊢
    simp only [ne_eq, List.map_eq_nil_iff, List.range_eq_nil]
    omega

/-- A good report contributes its meaningful slice (R126). -/
theorem reassemble_cons (m : Byte) (rest : Bytes) (rs : List Bytes) (h : m.toNat ≤ rest.length) :
    reassemble ((m :: rest) :: rs) =
      match reassemble rs with
      | .ok B => .ok (rest.take m.toNat ++ B)
      | .error e => .error e :=
  if_neg (by omega)

/-- Reassembly of chunk reports gives back the chunks (R104, R126). -/
theorem reassemble_chunkReports (chunks : List Bytes) (h : ∀ x ∈ chunks, x.length ≤ 63) :
    reassemble (chunks.map chunkReport) = .ok chunks.flatten := by
  induction chunks with
  | nil => rfl
  | cons x xs ih =>
    have hx : x.length ≤ 63 := h x (by simp)
    have hn : (BitVec.ofNat 8 x.length).toNat = x.length := by simp; omega
    rw [List.map_cons, chunkReport, List.singleton_append, List.cons_append, reassemble_cons _ _ _ (by simp [hn]),
      ih (fun y hy => h y (by simp [hy])), hn]
    simp

/-- What FRM.PARSE has checked when it gives a frame (R116 to R121). -/
theorem parseReport_ok (crc : Bytes → Word) (r : Bytes) (f : Frame) (h : parseReport crc r = .ok f) :
    8 ≤ r.length ∧ 7 ≤ (byteAt r 0).toNat ∧ byteAt r 1 = 0xAA ∧ byteAt r 2 = 0x55 ∧
    1 ≤ (le16 r 3).toNat ∧ 7 + (le16 r 3).toNat ≤ r.length ∧
    crc (slice r 5 (5 + (le16 r 3).toNat)) = le16 r (5 + (le16 r 3).toNat) ∧
    f = ⟨byteAt r 5, slice r 6 (5 + (le16 r 3).toNat)⟩ := by
  unfold parseReport at h
  dsimp only at h
  split_ifs at h with h1 h2 h3 h4 h5 h6
  simp only [Except.ok.injEq] at h
  simp only [not_or, not_not] at h3 h6
  exact ⟨by omega, by omega, h3.1, h3.2, by omega, by omega, h6, h.symm⟩

/-- What FRM.PARSEC has checked of the reassembled buffer when it gives a frame (R125, R128 to R130). -/
theorem parseMessage_ok (crc : Bytes → Word) (B : Bytes) (f : Frame) (h : parseMessage crc B = .ok f) :
    7 ≤ B.length ∧ byteAt B 0 = 0xAA ∧ byteAt B 1 = 0x55 ∧
    1 ≤ (le16 B 2).toNat ∧ 6 + (le16 B 2).toNat ≤ B.length ∧
    crc (slice B 4 (4 + (le16 B 2).toNat)) = le16 B (4 + (le16 B 2).toNat) ∧
    f = ⟨byteAt B 4, slice B 5 (4 + (le16 B 2).toNat)⟩ := by
  unfold parseMessage at h
  dsimp only at h
  split_ifs at h with h1 h2 h3 h4 h5
  simp only [Except.ok.injEq] at h
  simp only [not_or, not_not] at h2 h5
  exact ⟨by omega, h2.1, h2.2, by omega, by omega, h5, h.symm⟩

/-- A frame that a parse gives has a payload within R28's bound. -/
theorem parseReport_wf (crc : Bytes → Word) (r : Bytes) (f : Frame) (h : parseReport crc r = .ok f) : f.wf = true := by
  obtain ⟨-, -, -, -, h5, -, -, rfl⟩ := parseReport_ok crc r f h
  have := (le16 r 3).isLt
  simp [Frame.wf, Config.maxPayload]
  omega

theorem parseReports_wf (crc : Bytes → Word) (rs : List Bytes) (f : Frame) (h : parseReports crc rs = .ok f) :
    f.wf = true := by
  unfold parseReports at h
  split at h
  · rename_i B _
    obtain ⟨-, -, -, h4, -, -, rfl⟩ := parseMessage_ok crc B f h
    have := (le16 B 2).isLt
    simp [Frame.wf, Config.maxPayload]
    omega
  · cases h

end Sys2Proof.Machine
end

