-- ==== Sys2Proof/Laws/Commands.lean ====
section
/-! SUPPORT. What the builders of the command layer can answer, said once each (R206 to R216): a domain error when a check
fails, else what FRM.BUILDC answers. -/

namespace Sys2Proof.Machine

theorem buildSlot_cases (s : State) (id : Byte) (slot : Int) :
    ((slot < 0 ∨ slot > 199) ∧ buildSlot s id slot = .boundary (.slotRange slot)) ∨
    (0 ≤ slot ∧ slot ≤ 199 ∧ buildSlot s id slot = buildChunked s.crc16 id [narrow slot]) := by
  unfold buildSlot Config.slotMax
  split_ifs with h
  · exact .inl ⟨h, rfl⟩
  · exact .inr ⟨by omega, by omega, rfl⟩

theorem buildVolume_cases (s : State) (id : Byte) (v : Int) :
    ((v < 0 ∨ v > 100) ∧ buildVolume s id v = .boundary (.volumeRange v)) ∨
    (0 ≤ v ∧ v ≤ 100 ∧ buildVolume s id v = buildChunked s.crc16 id [narrow v]) := by
  unfold buildVolume Config.volumeMax
  split_ifs with h
  · exact .inl ⟨h, rfl⟩
  · exact .inr ⟨by omega, by omega, rfl⟩

theorem buildStore_cases (s : State) (id : Byte) (a : StoreArgs) :
    ((a.slot < 0 ∨ a.slot > 199) ∧ buildStore s id a = .boundary (.slotRange a.slot)) ∨
    (0 ≤ a.slot ∧ a.slot ≤ 199 ∧ a.record.length ≠ 512 ∧ buildStore s id a = .boundary (.storeSize a.record.length)) ∨
    (0 ≤ a.slot ∧ a.slot ≤ 199 ∧ a.record.length = 512 ∧
      buildStore s id a = buildChunked s.crc16 id (narrow a.slot :: a.record)) := by
  unfold buildStore Config.slotMax Config.presetSize
  split_ifs with h h2
  · exact .inl ⟨h, rfl⟩
  · exact .inr (.inl ⟨by omega, by omega, h2, rfl⟩)
  · exact .inr (.inr ⟨by omega, by omega, not_not.mp h2, rfl⟩)

theorem buildEffectParam_cases (s : State) (id : Byte) (i v : Int) :
    ((i < 0 ∨ i > 255) ∧ buildEffectParam s id i v = .boundary (.valueRange i)) ∨
    (0 ≤ i ∧ i ≤ 255 ∧ (v < 0 ∨ v > 255) ∧ buildEffectParam s id i v = .boundary (.valueRange v)) ∨
    (0 ≤ i ∧ i ≤ 255 ∧ 0 ≤ v ∧ v ≤ 255 ∧
      buildEffectParam s id i v = buildChunked s.crc16 id [narrow i, narrow v]) := by
  unfold buildEffectParam
  split_ifs with h h2
  · exact .inl ⟨h, rfl⟩
  · exact .inr (.inl ⟨by omega, by omega, h2, rfl⟩)
  · exact .inr (.inr ⟨by omega, by omega, by omega, by omega, rfl⟩)

/-- All a use of a command identifier can do (R190). -/
theorem commandUse_cases {α : Type} (id : Byte) (build : State → Byte → α → Answer) (parser : Bytes → Option Response)
    (u : CmdUse α) (s : State) :
    (∃ a, u = .request a ∧ commandUse id build parser u s = .next (s.done (build s id a))) ∨
    (∃ P, u = .generic P ∧ commandUse id build parser u s = .next (s.done (buildChunked s.crc16 id P))) ∨
    (∃ P, u = .response P ∧ commandUse id build parser u s =
      .next (s.done (.ok (.response ((parser P).getD (.untyped ⟨id, P⟩)))))) := by
  cases u with
  | request a => exact .inl ⟨a, rfl, rfl⟩
  | generic P => exact .inr (.inl ⟨P, rfl, rfl⟩)
  | response P => exact .inr (.inr ⟨P, rfl, rfl⟩)

end Sys2Proof.Machine
end

