-- ==== Sys2Proof/Laws/Decoding.lean ====
section
/-! SUPPORT. What each operand taker of the decoder accepts, said once: it answers an instruction exactly for operands of
its shape. -/

namespace Sys2Proof

theorem takeNone_ok (x : Operands) (j i : Instr) : takeNone x j = .ok i ↔ x = .none ∧ i = j := by
  cases x <;> simp [takeNone, eq_comm]

theorem takeBytes_ok (x : Operands) (f : Bytes → Instr) (i : Instr) :
    takeBytes x f = .ok i ↔ ∃ b, x = .bytes b ∧ i = f b := by
  cases x <;> simp [takeBytes, eq_comm]

theorem takeFrame_ok (x : Operands) (f : Byte → Bytes → Instr) (i : Instr) :
    takeFrame x f = .ok i ↔ ∃ c P, x = .frame c P ∧ i = f c P := by
  cases x <;> simp [takeFrame, eq_comm]

theorem takeReports_ok (x : Operands) (f : List Bytes → Instr) (i : Instr) :
    takeReports x f = .ok i ↔ ∃ rs, x = .reports rs ∧ i = f rs := by
  cases x <;> simp [takeReports, eq_comm]

theorem takePreset_ok (x : Operands) (f : Preset → Instr) (i : Instr) :
    takePreset x f = .ok i ↔ ∃ p, x = .preset p ∧ p.wf = true ∧ i = f p := by
  cases x with
  | preset p =>
    constructor
    · intro h
      by_cases hw : p.wf = true
      · exact ⟨p, rfl, hw, by simpa [takePreset, hw] using h.symm⟩
      · simp [takePreset, hw] at h
    · rintro ⟨q, hq, hw, rfl⟩
      cases hq
      simp [takePreset, hw]
  | _ => simp [takePreset]

theorem takeSetParam_ok (x : Operands) (f : Preset → ModuleKind → String → Int → Instr) (i : Instr) :
    takeSetParam x f = .ok i ↔ ∃ p k field v, x = .setParam p k field v ∧ p.wf = true ∧ i = f p k field v := by
  cases x with
  | setParam p k field v =>
    constructor
    · intro h
      by_cases hw : p.wf = true
      · exact ⟨p, k, field, v, rfl, hw, by simpa [takeSetParam, hw] using h.symm⟩
      · simp [takeSetParam, hw] at h
    · rintro ⟨q, _, _, _, hq, hw, rfl⟩
      cases hq
      simp [takeSetParam, hw]
  | _ => simp [takeSetParam]

theorem takeModule_ok (k : ModuleKind) (x : Operands) (f : EffectModule → Instr) (i : Instr) :
    takeModule k x f = .ok i ↔ ∃ m, x = .effect m ∧ m.wf k = true ∧ i = f m := by
  cases x with
  | effect m =>
    constructor
    · intro h
      by_cases hw : m.wf k = true
      · exact ⟨m, rfl, hw, by simpa [takeModule, hw] using h.symm⟩
      · simp [takeModule, hw] at h
    · rintro ⟨q, hq, hw, rfl⟩
      cases hq
      simp [takeModule, hw]
  | _ => simp [takeModule]

/-- A request's operand values are never a generic payload's or a response's. -/
structure RequestForm {α : Type} (args : Operands → Option α) (request : α → Operands) : Prop where
  args_ok : ∀ x a, args x = some a ↔ x = request a
  not_generic : ∀ a P, request a ≠ .generic P
  not_response : ∀ a P, request a ≠ .response P

theorem takeUse_ok {α : Type} {args : Operands → Option α} {request : α → Operands} (hr : RequestForm args request)
    (x : Operands) (f : CmdUse α → Instr) (i : Instr) :
    takeUse args x f = .ok i ↔ ∃ u : CmdUse α, x = useOperands request u ∧ u.wf = true ∧ i = f u := by
  have plain : (∀ P, x ≠ .generic P) → (∀ P, x ≠ .response P) →
      (takeUse args x f = .ok i ↔ ∃ u : CmdUse α, x = useOperands request u ∧ u.wf = true ∧ i = f u) := by
    intro hg hp
    have ht : takeUse args x f = match args x with
        | some a => .ok (f (.request a))
        | none => .error .operandShape := by
      cases x <;> first | rfl | exact absurd rfl (hg _) | exact absurd rfl (hp _)
    rw [ht]
    cases ha : args x with
    | none =>
      simp only [reduceCtorEq, false_iff, not_exists, not_and]
      rintro (a | P | P) hx
      · rw [(hr.args_ok x a).mpr hx] at ha; cases ha
      · exact absurd hx (hg P)
      · exact absurd hx (hp P)
    | some a =>
      have hx := (hr.args_ok x a).mp ha
      constructor
      · intro h; exact ⟨.request a, hx, rfl, by simpa using h.symm⟩
      · rintro ⟨a' | P | P, hx', -, rfl⟩
        · rw [(hr.args_ok x a').mpr hx'] at ha
          cases ha; rfl
        · exact absurd hx' (hg P)
        · exact absurd hx' (hp P)
  cases x with
  | generic P =>
    constructor
    · intro h; exact ⟨.generic P, rfl, rfl, by simpa [takeUse] using h.symm⟩
    · rintro ⟨a | Q | Q, hx, -, rfl⟩
      · exact absurd hx.symm (hr.not_generic a P)
      · cases hx; rfl
      · cases hx
  | response P =>
    constructor
    · intro h
      by_cases hl : P.length ≤ Config.maxPayload
      · exact ⟨.response P, rfl, by simpa [CmdUse.wf] using hl, by simpa [takeUse, hl] using h.symm⟩
      · simp [takeUse, hl] at h
    · rintro ⟨a | Q | Q, hx, hw, rfl⟩
      · exact absurd hx.symm (hr.not_response a P)
      · cases hx
      · cases hx
        have : P.length ≤ Config.maxPayload := by simpa [CmdUse.wf] using hw
        simp [takeUse, this]
  | _ => exact plain (by simp) (by simp)

theorem query_form : RequestForm queryArgs (fun _ => .query) where
  args_ok x a := by cases x <;> simp [queryArgs]
  not_generic := by simp
  not_response := by simp

theorem number_form : RequestForm numberArgs .number where
  args_ok x a := by cases x <;> simp [numberArgs]
  not_generic := by simp
  not_response := by simp

theorem param_form : RequestForm paramArgs paramOperands where
  args_ok x a := by cases x <;> cases a <;> simp [paramArgs, paramOperands]
  not_generic a := by cases a <;> simp [paramOperands]
  not_response a := by cases a <;> simp [paramOperands]

theorem blob_form : RequestForm blobArgs .blob where
  args_ok x a := by cases x <;> simp [blobArgs]
  not_generic := by simp
  not_response := by simp

theorem store_form : RequestForm storeArgs (fun a => .store a.slot a.record) where
  args_ok x a := by
    cases x <;> cases a <;> simp [storeArgs]
  not_generic := by simp
  not_response := by simp

end Sys2Proof
end

