-- ==== Sys2Proof/Laws/PerInstr.lean ====
section
/-! SUPPORT. Statements made for every instruction, one lemma per constructor. RoundTrip: a well-formed instruction is what
the decoder reads from its own encoding (R79, R80, R190). -/

namespace Sys2Proof.Laws.RoundTrip

/-- The decoder reads a well-formed instruction back from its encoding. -/
def Statement (i : Instr) : Prop := i.wf = true → decode (encode i) = .ok i

theorem cksum (b : Bytes) : Statement (.cksum b) :=
  fun _ => (takeBytes_ok _ _ _).mpr ⟨_, rfl, rfl⟩
theorem frmBuild (c : Byte) (P : Bytes) : Statement (.frmBuild c P) :=
  fun _ => (takeFrame_ok _ _ _).mpr ⟨_, _, rfl, rfl⟩
theorem frmBuildc (c : Byte) (P : Bytes) : Statement (.frmBuildc c P) :=
  fun _ => (takeFrame_ok _ _ _).mpr ⟨_, _, rfl, rfl⟩
theorem frmParse (b : Bytes) : Statement (.frmParse b) :=
  fun _ => (takeBytes_ok _ _ _).mpr ⟨_, rfl, rfl⟩
theorem frmParsec (rs : List Bytes) : Statement (.frmParsec rs) :=
  fun _ => (takeReports_ok _ _ _).mpr ⟨_, rfl, rfl⟩
theorem pstNew : Statement (.pstNew) :=
  fun _ => (takeNone_ok _ _ _).mpr ⟨rfl, rfl⟩
theorem pstEnc (p : Preset) : Statement (.pstEnc p) :=
  fun h => (takePreset_ok _ _ _).mpr ⟨_, rfl, h, rfl⟩
theorem pstDec (b : Bytes) : Statement (.pstDec b) :=
  fun _ => (takeBytes_ok _ _ _).mpr ⟨_, rfl, rfl⟩
theorem pstSetp (p : Preset) (k : ModuleKind) (field : String) (v : Int) : Statement (.pstSetp p k field v) :=
  fun h => (takeSetParam_ok _ _ _).mpr ⟨_, _, _, _, rfl, h, rfl⟩
theorem modEncFx (m : EffectModule) : Statement (.modEncFx m) :=
  fun h => (takeModule_ok _ _ _ _).mpr ⟨_, rfl, h, rfl⟩
theorem modEncOd (m : EffectModule) : Statement (.modEncOd m) :=
  fun h => (takeModule_ok _ _ _ _).mpr ⟨_, rfl, h, rfl⟩
theorem modEncAmp (m : EffectModule) : Statement (.modEncAmp m) :=
  fun h => (takeModule_ok _ _ _ _).mpr ⟨_, rfl, h, rfl⟩
theorem modEncCab (m : EffectModule) : Statement (.modEncCab m) :=
  fun h => (takeModule_ok _ _ _ _).mpr ⟨_, rfl, h, rfl⟩
theorem modEncNs (m : EffectModule) : Statement (.modEncNs m) :=
  fun h => (takeModule_ok _ _ _ _).mpr ⟨_, rfl, h, rfl⟩
theorem modEncEq (m : EffectModule) : Statement (.modEncEq m) :=
  fun h => (takeModule_ok _ _ _ _).mpr ⟨_, rfl, h, rfl⟩
theorem modEncMod (m : EffectModule) : Statement (.modEncMod m) :=
  fun h => (takeModule_ok _ _ _ _).mpr ⟨_, rfl, h, rfl⟩
theorem modEncDelay (m : EffectModule) : Statement (.modEncDelay m) :=
  fun h => (takeModule_ok _ _ _ _).mpr ⟨_, rfl, h, rfl⟩
theorem modEncReverb (m : EffectModule) : Statement (.modEncReverb m) :=
  fun h => (takeModule_ok _ _ _ _).mpr ⟨_, rfl, h, rfl⟩
theorem modDecFx (b : Bytes) : Statement (.modDecFx b) :=
  fun _ => (takeBytes_ok _ _ _).mpr ⟨_, rfl, rfl⟩
theorem modDecOd (b : Bytes) : Statement (.modDecOd b) :=
  fun _ => (takeBytes_ok _ _ _).mpr ⟨_, rfl, rfl⟩
theorem modDecAmp (b : Bytes) : Statement (.modDecAmp b) :=
  fun _ => (takeBytes_ok _ _ _).mpr ⟨_, rfl, rfl⟩
theorem modDecCab (b : Bytes) : Statement (.modDecCab b) :=
  fun _ => (takeBytes_ok _ _ _).mpr ⟨_, rfl, rfl⟩
theorem modDecNs (b : Bytes) : Statement (.modDecNs b) :=
  fun _ => (takeBytes_ok _ _ _).mpr ⟨_, rfl, rfl⟩
theorem modDecEq (b : Bytes) : Statement (.modDecEq b) :=
  fun _ => (takeBytes_ok _ _ _).mpr ⟨_, rfl, rfl⟩
theorem modDecMod (b : Bytes) : Statement (.modDecMod b) :=
  fun _ => (takeBytes_ok _ _ _).mpr ⟨_, rfl, rfl⟩
theorem modDecDelay (b : Bytes) : Statement (.modDecDelay b) :=
  fun _ => (takeBytes_ok _ _ _).mpr ⟨_, rfl, rfl⟩
theorem modDecReverb (b : Bytes) : Statement (.modDecReverb b) :=
  fun _ => (takeBytes_ok _ _ _).mpr ⟨_, rfl, rfl⟩
theorem cmdIdentify (u : CmdUse Unit) : Statement (.cmdIdentify u) :=
  fun h => (takeUse_ok query_form _ _ _).mpr ⟨_, rfl, h, rfl⟩
theorem cmdPreset (u : CmdUse Int) : Statement (.cmdPreset u) :=
  fun h => (takeUse_ok number_form _ _ _).mpr ⟨_, rfl, h, rfl⟩
theorem cmdFx (u : CmdUse ParamArgs) : Statement (.cmdFx u) :=
  fun h => (takeUse_ok param_form _ _ _).mpr ⟨_, rfl, h, rfl⟩
theorem cmdOd (u : CmdUse ParamArgs) : Statement (.cmdOd u) :=
  fun h => (takeUse_ok param_form _ _ _).mpr ⟨_, rfl, h, rfl⟩
theorem cmdAmp (u : CmdUse ParamArgs) : Statement (.cmdAmp u) :=
  fun h => (takeUse_ok param_form _ _ _).mpr ⟨_, rfl, h, rfl⟩
theorem cmdCab (u : CmdUse ParamArgs) : Statement (.cmdCab u) :=
  fun h => (takeUse_ok param_form _ _ _).mpr ⟨_, rfl, h, rfl⟩
theorem cmdNs (u : CmdUse ParamArgs) : Statement (.cmdNs u) :=
  fun h => (takeUse_ok param_form _ _ _).mpr ⟨_, rfl, h, rfl⟩
theorem cmdEq (u : CmdUse ParamArgs) : Statement (.cmdEq u) :=
  fun h => (takeUse_ok param_form _ _ _).mpr ⟨_, rfl, h, rfl⟩
theorem cmdMod (u : CmdUse ParamArgs) : Statement (.cmdMod u) :=
  fun h => (takeUse_ok param_form _ _ _).mpr ⟨_, rfl, h, rfl⟩
theorem cmdDelay (u : CmdUse ParamArgs) : Statement (.cmdDelay u) :=
  fun h => (takeUse_ok param_form _ _ _).mpr ⟨_, rfl, h, rfl⟩
theorem cmdReverb (u : CmdUse ParamArgs) : Statement (.cmdReverb u) :=
  fun h => (takeUse_ok param_form _ _ _).mpr ⟨_, rfl, h, rfl⟩
theorem cmdSystem (u : CmdUse Bytes) : Statement (.cmdSystem u) :=
  fun h => (takeUse_ok blob_form _ _ _).mpr ⟨_, rfl, h, rfl⟩
theorem cmdVolume (u : CmdUse Int) : Statement (.cmdVolume u) :=
  fun h => (takeUse_ok number_form _ _ _).mpr ⟨_, rfl, h, rfl⟩
theorem cmdActivePatch (u : CmdUse Int) : Statement (.cmdActivePatch u) :=
  fun h => (takeUse_ok number_form _ _ _).mpr ⟨_, rfl, h, rfl⟩
theorem cmdStorePatch (u : CmdUse StoreArgs) : Statement (.cmdStorePatch u) :=
  fun h => (takeUse_ok store_form _ _ _).mpr ⟨_, rfl, h, rfl⟩

end Sys2Proof.Laws.RoundTrip
end

