-- ==== Sys2Proof/Laws/Records.lean ====
section
/-! SUPPORT. What the Record Serializer's shared operations can do, said once each. -/

namespace Sys2Proof.Machine

@[simp] theorem modEnc_length (m : EffectModule) : (modEnc m).length = 3 + m.body.length := by
  simp [modEnc]; omega

theorem modEnc_length_of_wf (m : EffectModule) (k : ModuleKind) (h : m.wf k = true) : (modEnc m).length = k.size := by
  have hb : m.body.length = k.bodyLen := by simpa [EffectModule.wf] using h
  rw [modEnc_length, hb]
  cases k <;> rfl

/-- MOD.DEC.k always gives a module of its kind (R157). -/
@[simp] theorem modDec_wf (k : ModuleKind) (buf : Bytes) : (modDec k buf).wf k = true := by
  simp [EffectModule.wf, modDec, ModuleKind.bodyLen]

@[simp] theorem emptyModule_wf (k : ModuleKind) : (emptyModule k).wf k = true := by
  simp [EffectModule.wf, emptyModule]

@[simp] theorem emptyPreset_wf : emptyPreset.wf = true := by decide

@[simp] theorem nameEnc_length (c : Params) (n : Nat) (s : Bytes) : (nameEnc c n s).length = n := by simp [nameEnc]

theorem nameDec_length (f : Bytes) : (nameDec f).length ≤ f.length := untilNull_length_le f

@[simp] theorem presetModule_withModule_self (p : Preset) (k : ModuleKind) (m : EffectModule) :
    presetModule (presetWithModule p k m) k = m := by cases k <;> rfl

theorem presetModule_withModule_ne (p : Preset) (k j : ModuleKind) (m : EffectModule) (h : j ≠ k) :
    presetModule (presetWithModule p k m) j = presetModule p j := by
  cases k <;> cases j <;> first | rfl | exact absurd rfl h

@[simp] theorem presetWithModule_name (p : Preset) (k : ModuleKind) (m : EffectModule) :
    (presetWithModule p k m).name = p.name := by cases k <;> rfl

@[simp] theorem presetWithModule_effectOrder (p : Preset) (k : ModuleKind) (m : EffectModule) :
    (presetWithModule p k m).effectOrder = p.effectOrder := by cases k <;> rfl

/-- The shape of a preset, by its ten effect-order bytes and its nine modules (R31). -/
theorem preset_wf_iff (p : Preset) :
    p.wf = true ↔ p.effectOrder.length = 10 ∧ ∀ k, (presetModule p k).wf k = true := by
  simp only [Preset.wf, Bool.and_eq_true, beq_iff_eq, Config.effectOrderLen]
  constructor
  · rintro ⟨⟨⟨⟨⟨⟨⟨⟨⟨h, h1⟩, h2⟩, h3⟩, h4⟩, h5⟩, h6⟩, h7⟩, h8⟩, h9⟩
    refine ⟨h, fun k => ?_⟩
    cases k <;> assumption
  · rintro ⟨h, hk⟩
    exact ⟨⟨⟨⟨⟨⟨⟨⟨⟨h, hk .fx⟩, hk .od⟩, hk .amp⟩, hk .cab⟩, hk .ns⟩, hk .eq⟩, hk .mod⟩, hk .delay⟩, hk .reverb⟩

theorem presetWithModule_wf (p : Preset) (k : ModuleKind) (m : EffectModule) (hp : p.wf = true) (hm : m.wf k = true) :
    (presetWithModule p k m).wf = true := by
  rw [preset_wf_iff] at hp ⊢
  refine ⟨by simp [hp.1], fun j => ?_⟩
  by_cases h : j = k
  · subst h; simpa using hm
  · rw [presetModule_withModule_ne p k j m h]; exact hp.2 j

theorem presetModule_wf (p : Preset) (k : ModuleKind) (h : p.wf = true) : (presetModule p k).wf k = true :=
  ((preset_wf_iff p).mp h).2 k

/-- The length of PST.ENC's record is the sum of its fields' (R69). -/
theorem presetEncode_length_of_wf (c : Params) (p : Preset) (h : p.wf = true) : (presetEncode c p).length = 512 := by
  have hk : ∀ k, 3 + (presetModule p k).body.length = k.size := fun k => by
    rw [← modEnc_length]; exact modEnc_length_of_wf _ k (presetModule_wf p k h)
  have ho := ((preset_wf_iff p).mp h).1
  have h1 := hk .fx
  have h2 := hk .od
  have h3 := hk .amp
  have h4 := hk .cab
  have h5 := hk .ns
  have h6 := hk .eq
  have h7 := hk .mod
  have h8 := hk .delay
  have h9 := hk .reverb
  simp only [presetModule, ModuleKind.size] at h1 h2 h3 h4 h5 h6 h7 h8 h9
  simp only [presetEncode, putBe16, List.length_append, List.length_cons, List.length_nil, nameEnc_length, modEnc_length,
    zeros_length, Config.nameLen, Config.tailLen]
  omega

/-- PST.DEC always gives a preset of the type's shape (R144). -/
@[simp] theorem presetDecode_wf (buf : Bytes) : (presetDecode buf).wf = true := by
  rw [preset_wf_iff]
  refine ⟨by simp [presetDecode, Config.presetSize], fun k => ?_⟩
  cases k <;> simp [presetModule, presetDecode]

/-- The module of kind k that PST.DEC gives (R151). -/
theorem presetModule_decode (buf : Bytes) (k : ModuleKind) :
    presetModule (presetDecode buf) k = modDec k (moduleSlice k (fit buf 512)) := by cases k <;> rfl

/-- Under valid parameters a settled name is looked up among the settled entries only (R178). -/
theorem findField_settled (c : Params) (h : c.valid = true) (k : ModuleKind) (field : String)
    (hf : field ∈ settledNames) : findField c k field = (settledFields c k).find? (fun e => e.name == field) := by
  simp only [Params.valid, Bool.and_eq_true, List.all_eq_true, FieldEntry.fits, Bool.not_eq_true',
    List.contains_eq_mem, decide_eq_false_iff_not] at h
  have hn : ((c.extraFields.filter (fun x => x.1 == k)).map (fun x => x.2)).find? (fun e => e.name == field) = none := by
    rw [List.find?_eq_none]
    intro e he hname
    obtain ⟨x, hx, rfl⟩ := List.mem_map.mp he
    rw [beq_iff_eq] at hname
    exact (h.1.2 x (List.mem_filter.mp hx).1).2 (hname ▸ hf)
  rw [findField, fieldTable, List.find?_append, hn, Option.or_none]

/-- All PST.SETP can answer (R147, R148, R250). -/
theorem setParam_cases (c : Params) (p : Preset) (k : ModuleKind) (field : String) (v : Int) :
    (findField c k field = none ∧ setParam c p k field v = .unknownField k field) ∨
    (∃ e, findField c k field = some e ∧ (v < 0 ∨ v ≥ 256 ^ e.width) ∧
      setParam c p k field v = .valueRange field 0 (256 ^ e.width - 1) v) ∨
    (∃ e, findField c k field = some e ∧ 0 ≤ v ∧ v < 256 ^ e.width ∧
      setParam c p k field v = .ok (.preset (presetWithModule p k
        (modDec k (memWrite (modEnc (presetModule p k)) e.offset e.width v.toNat))))) := by
  unfold setParam
  cases hf : findField c k field with
  | none => exact .inl ⟨rfl, rfl⟩
  | some e =>
    dsimp only
    by_cases hv : v < 0 ∨ v ≥ 256 ^ e.width
    · exact .inr (.inl ⟨e, rfl, hv, by rw [if_pos hv]⟩)
    · have hv' := hv
      simp only [not_or, not_lt, not_le, ge_iff_le] at hv'
      exact .inr (.inr ⟨e, rfl, hv'.1, hv'.2, by rw [if_neg hv]⟩)

theorem mbfEntry_length (c : Params) (ps : List Preset) (i : Nat) (h : ∀ p ∈ ps, p.wf = true) :
    (mbfEntry c ps i).length = 546 := by
  unfold mbfEntry
  cases hi : ps[i]? with
  | none => simp [Config.presetSize]
  | some p => simp [presetEncode_length_of_wf c p (h p (List.mem_of_getElem? hi))]

/-- The length of an .mbf file (R234). -/
theorem mbfBytes_length (c : Params) (m n : Bytes) (ps : List Preset) (h : ∀ p ∈ ps, p.wf = true)
    (hv : c.mbfVersion.length = 4) : (mbfBytes c m n ps).length = 44 + 199 * 546 := by
  have hs : ∀ l : List Nat, ((l.map (mbfEntry c ps)).flatten).length = l.length * 546 := by
    intro l
    induction l with
    | nil => rfl
    | cons i l ih => simp only [List.map_cons, List.flatten_cons, List.length_append, List.length_cons, ih, mbfEntry_length c ps i h]; ring
  simp only [mbfBytes, List.length_append, nameEnc_length, hv, hs, List.length_range, mbfEntries]

end Sys2Proof.Machine
end

