-- ==== Sys2Proof/Laws/Step.lean ====
section
/-! SUPPORT. What an instruction, a host call and a step can do, said once each: return an outcome at the port, by
`State.done` or `State.parsed`, whose lemmas are in Laws/State.lean. -/

namespace Sys2Proof.Machine

/-- The two ways an operation ends in a next state. -/
def EndsIn (s t : State) : Prop := (∃ a, t = s.done a) ∨ ∃ e, t = s.parsed e

theorem EndsIn.params {s t : State} (h : EndsIn s t) : t.params = s.params := by
  rcases h with ⟨a, rfl⟩ | ⟨e, rfl⟩ <;> simp

theorem EndsIn.pending {s t : State} (h : EndsIn s t) : t.pending = s.pending := by
  rcases h with ⟨a, rfl⟩ | ⟨e, rfl⟩ <;> simp

theorem EndsIn.crc {s t : State} (h : EndsIn s t) : t.crc = none := by
  rcases h with ⟨a, rfl⟩ | ⟨e, rfl⟩ <;> simp

theorem EndsIn.reassembly {s t : State} (h : EndsIn s t) : t.reassembly = none := by
  rcases h with ⟨a, rfl⟩ | ⟨e, rfl⟩ <;> simp

theorem EndsIn.answer {s t : State} (h : EndsIn s t) : ∃ a, t.answer = some a := by
  rcases h with ⟨a, rfl⟩ | ⟨e, rfl⟩
  · exact ⟨a, rfl⟩
  · exact ⟨parseAnswer e, by simp⟩

/-- A meaning that returns `a` completes with `a`. -/
theorem completes_done {i : Instr} {s : State} {a : Answer} (h : exec i s = .next (s.done a)) : Completes i s a :=
  ⟨_, h, by simp, by simp, by simp, by simp, by simp⟩

/-- A parse that ends in `e` completes with its outcome. -/
theorem completes_parsed {i : Instr} {s : State} {e : Except NoFrameReason Frame} (h : exec i s = .next (s.parsed e)) :
    Completes i s (parseAnswer e) :=
  ⟨_, h, by simp, by simp, by simp, by simp, by simp⟩

/-- The outcome an instruction completes with is the only one (R245). -/
theorem Completes.unique {i : Instr} {s : State} {a b : Answer} (ha : Completes i s a) (hb : Completes i s b) :
    a = b := by
  obtain ⟨t, ht, ha, -⟩ := ha
  obtain ⟨u, hu, hb, -⟩ := hb
  rw [ht] at hu
  cases hu
  rw [ha] at hb
  exact Option.some.inj hb

theorem commandUse_endsIn {α : Type} (id : Byte) (build : State → Byte → α → Answer) (parser : Bytes → Option Response)
    (u : CmdUse α) (s : State) : ∃ t, commandUse id build parser u s = .next t ∧ EndsIn s t := by
  rcases commandUse_cases id build parser u s with ⟨a, -, h⟩ | ⟨P, -, h⟩ | ⟨P, -, h⟩ <;>
    exact ⟨_, h, .inl ⟨_, rfl⟩⟩

/-- What an instruction's meaning can do. -/
theorem exec_endsIn (i : Instr) (s : State) : ∃ t, exec i s = .next t ∧ EndsIn s t := by
  cases i with
  | frmParse r => exact ⟨_, rfl, .inr ⟨_, rfl⟩⟩
  | frmParsec rs => exact ⟨_, rfl, .inr ⟨_, rfl⟩⟩
  | cmdIdentify u => exact commandUse_endsIn ..
  | cmdPreset u => exact commandUse_endsIn ..
  | cmdFx u => exact commandUse_endsIn ..
  | cmdOd u => exact commandUse_endsIn ..
  | cmdAmp u => exact commandUse_endsIn ..
  | cmdCab u => exact commandUse_endsIn ..
  | cmdNs u => exact commandUse_endsIn ..
  | cmdEq u => exact commandUse_endsIn ..
  | cmdMod u => exact commandUse_endsIn ..
  | cmdDelay u => exact commandUse_endsIn ..
  | cmdReverb u => exact commandUse_endsIn ..
  | cmdSystem u => exact commandUse_endsIn ..
  | cmdVolume u => exact commandUse_endsIn ..
  | cmdActivePatch u => exact commandUse_endsIn ..
  | cmdStorePatch u => exact commandUse_endsIn ..
  | _ => exact ⟨_, rfl, .inl ⟨_, rfl⟩⟩

theorem returns_endsIn {s t : State} {a : Answer} (h : returns s a = .next t) : EndsIn s t := by
  cases h; exact .inl ⟨a, rfl⟩

/-- Only a code outside the enumeration decodes to an unknown command (R190, R215). -/
theorem decode_unknownCommand {x : Txn} {id : Byte} (h : decode x = .error (.unknownCommand id)) :
    id ∉ commandIds := by
  obtain ⟨space, code, y⟩ := x
  have hu : ∀ {α : Type} (args : Operands → Option α) (f : CmdUse α → Instr),
      takeUse args y f ≠ .error (.unknownCommand id) := by
    intro α args f
    unfold takeUse
    split
    · simp
    · split_ifs <;> simp
    · split <;> simp
  cases space with
  | op =>
    simp only [decode] at h
    unfold decodeOp at h
    split at h
    case h_28 => cases h
    all_goals cases y <;>
      simp [takeNone, takeBytes, takeFrame, takeReports, takePreset, takeSetParam, takeModule] at h
    all_goals (split_ifs at h; cases h)
  | cmd =>
    simp only [decode] at h
    unfold decodeCmd at h
    split at h
    case h_16 =>
      cases h
      simp only [commandIds, List.mem_cons, List.not_mem_nil, or_false]
      rintro (rfl | rfl | rfl | rfl | rfl | rfl | rfl | rfl | rfl | rfl | rfl | rfl | rfl | rfl | rfl) <;> contradiction
    all_goals exact absurd h (hu _ _)

/-- A transaction that is performed either decodes and runs, or names a command outside the enumeration (R215, R224). -/
theorem performTxn_cases {x : Txn} {s t : State} (h : performTxn x s = .next t) :
    (∃ i, decode x = .ok i ∧ exec i s = .next t) ∨
    (∃ id P, id ∉ commandIds ∧ x.operands = .generic P ∧
      t = s.done (.boundary (.unknownCommand id.toNat))) ∨
    (∃ id P, id ∉ commandIds ∧ x.operands = .response P ∧ P.length ≤ 65534 ∧
      t = s.done (.ok (.response (.untyped ⟨id, P⟩)))) := by
  unfold performTxn at h
  split at h
  · rename_i i hi; exact .inl ⟨i, hi, h⟩
  · cases h
  · rename_i id hid
    unfold performUnknownCommand at h
    split at h
    · rename_i P hP
      cases h
      exact .inr (.inl ⟨id, P, decode_unknownCommand hid, hP, rfl⟩)
    · rename_i P hP
      split_ifs at h with hl
      cases h
      exact .inr (.inr ⟨id, P, decode_unknownCommand hid, hP, hl, rfl⟩)
    · cases h
  · cases h

theorem performTxn_endsIn {x : Txn} {s t : State} (h : performTxn x s = .next t) : EndsIn s t := by
  rcases performTxn_cases h with ⟨i, -, h⟩ | ⟨_, _, -, -, rfl⟩ | ⟨_, _, -, -, -, rfl⟩
  · obtain ⟨u, hu, he⟩ := exec_endsIn i s
    rw [h] at hu
    cases hu
    exact he
  · exact .inl ⟨_, rfl⟩
  · exact .inl ⟨_, rfl⟩

theorem performByName_endsIn {name : String} {x : Operands} {s t : State} (h : performByName name x s = .next t) :
    EndsIn s t := by
  unfold performByName at h
  split at h
  · exact returns_endsIn h
  · exact performTxn_endsIn h

/-- All build_command can do: report an integer that is no byte, or run the transaction of its byte (R215). -/
theorem performBuildCommand_cases (id : Int) (P : Bytes) (s : State) :
    ((id < 0 ∨ id > 255) ∧ performBuildCommand id P s = .next (s.done (.boundary (.unknownCommand id)))) ∨
    (0 ≤ id ∧ id ≤ 255 ∧ performBuildCommand id P s = performTxn ⟨.cmd, narrow id, .generic P⟩ s) := by
  unfold performBuildCommand
  split_ifs with h
  · exact .inl ⟨h, rfl⟩
  · exact .inr ⟨by omega, by omega, rfl⟩

/-- What a host call can do when it is performed. -/
theorem perform_endsIn {c : Call} {s t : State} (h : perform c s = .next t) : EndsIn s t := by
  cases c with
  | txn x => exact performTxn_endsIn h
  | effectParam n i v => exact performByName_endsIn h
  | toggleEffect n b => exact performByName_endsIn h
  | buildCommand id P =>
    rcases performBuildCommand_cases id P s with ⟨-, e⟩ | ⟨-, -, e⟩ <;> rw [perform, e] at h
    · exact returns_endsIn h
    · exact performTxn_endsIn h
  | exportMo p =>
    simp only [perform] at h
    split_ifs at h
    exact returns_endsIn h
  | importMo F => exact returns_endsIn h
  | exportMbf m n ps =>
    simp only [perform] at h
    split_ifs at h
    exact returns_endsIn h
  | importMbf F => exact returns_endsIn h
  | parseGnrHeader F => exact returns_endsIn h

/-- All a step can do when it gives a next state: idle, or perform the first pending call (R54). -/
theorem step_cases {s t : State} (h : step s = .next t) :
    (s.pending = [] ∧ t = s) ∨
    ∃ c rest, s.pending = c :: rest ∧ perform c (s.withPending rest) = .next t ∧ EndsIn (s.withPending rest) t := by
  unfold step at h
  split at h
  · rename_i hp; cases h; exact .inl ⟨hp, rfl⟩
  · rename_i c rest hp; exact .inr ⟨c, rest, hp, h, perform_endsIn h⟩

end Sys2Proof.Machine
end

