-- ==== Sys2Proof/Tests/Slice0.lean ====
section
/-! SUPPORT. Our own tests: the refusals of WellFormed, the decoding of codes written out from R79 and R190 to R205, vectors
of 95_test_vectors.md, and for every obligation with hypotheses a witness that meets them. -/

set_option Elab.async false

namespace Sys2Proof.Tests

open Sys2Proof.Machine

/-- The reset state under the test configuration TC (95_test_vectors.md, section 0). -/
def tc : State := { State.reset with params := Config.testConfiguration }

/-- What an instruction answers under TC. -/
def answers (i : Instr) : Option Answer := answerOf (exec i tc)

/-- What a host call answers under TC, performed by one step. -/
def callAnswers (c : Call) : Option Answer := answerOf (step (tc.withPending [c]))

/-- The reports an answer carries. -/
def reportsOf : Option Answer → List Bytes
  | some (.ok (.reports rs)) => rs
  | _ => []

/-- The presets of a backup an answer carries. -/
def presetsOf : Option Answer → List Preset
  | some (.ok (.backup b)) => b.presets
  | _ => []

/-- A module value `{h, enabled, t, zeros}` of kind k. -/
def someModule (k : ModuleKind) (h : Byte) (enabled : Bool) (t : Byte) : EffectModule :=
  { emptyModule k with header := h, enabled := enabled, type := t }

/-- Report G of 95_test_vectors.md (vector B1). -/
def reportG : Bytes := [0x08, 0xAA, 0x55, 0x02, 0x00, 0xA6, 0x02, 0x65, 0x68] ++ zeros 55

/-- The valid preset of program 2 of 95_test_vectors.md, name "Lead 1". -/
def lead : Preset :=
  { emptyPreset with effectOrder := [0, 1, 2, 3, 4, 5, 6, 7, 8, 9], name := [0x4C, 0x65, 0x61, 0x64, 0x20, 0x31] }


/-! WellFormed refuses each ill-formed term (R28, R30, R31, R32). -/

theorem test_wf_effect_order : Instr.wf (.pstEnc { emptyPreset with effectOrder := zeros 9 }) = false := by decide
theorem test_wf_preset_module :
    Instr.wf (.pstSetp { emptyPreset with delay := emptyModule .fx } .fx "type" 0) = false := by decide
theorem test_wf_module_body : Instr.wf (.modEncDelay (emptyModule .eq)) = false := by decide
theorem test_wf_response_payload :
    Instr.wf (.cmdSystem (.response (zeros 65535))) = false := by simp [Instr.wf, CmdUse.wf, Config.maxPayload]
theorem test_wf_frame_payload : Frame.wf ⟨0, zeros 65535⟩ = false := by simp [Frame.wf, Config.maxPayload]
theorem test_name_too_long : validName (List.replicate 15 0x41) = false := by decide
theorem test_name_high_byte : validName [0x41, 0x80] = false := by decide
theorem test_name_null : validName [0x41, 0x00] = false := by decide
theorem test_name_14 : validName (List.replicate 14 0x7F) = true := by decide
theorem test_preset_not_valid :
    Preset.valid { emptyPreset with name := [0x80] } = false ∧ emptyPreset.wf = true := by decide
theorem test_params_not_valid :
    Params.valid { Config.testConfiguration with delayTimeOff := 16 } = false ∧
    Params.valid { Config.testConfiguration with delayTimeOff := 2 } = false ∧
    Params.valid { Config.testConfiguration with eqBandsOff := 12 } = false ∧
    Params.valid { Config.testConfiguration with eqBandsOff := 2 } = false ∧
    Params.valid { Config.testConfiguration with extraFields := [(.fx, ⟨"x", 12, 2⟩)] } = false ∧
    Params.valid { Config.testConfiguration with extraFields := [(.fx, ⟨"time_ms", 4, 2⟩)] } = false ∧
    Params.valid { Config.testConfiguration with extraFields := [(.cab, ⟨"band0", 4, 1⟩)] } = false ∧
    Params.valid { Config.testConfiguration with mbfVersion := [0] } = false := by decide +kernel

/-! Decoding: every code, written out from R79 (op-select) and R191 to R205 (command identifiers). -/

theorem test_decode_cksum : decode ⟨.op, 0b00000000, .bytes [0xA6, 0x02]⟩ = .ok (.cksum [0xA6, 0x02]) := by rfl
theorem test_decode_frmBuild : decode ⟨.op, 0b00010000, .frame 0xA6 [0x02]⟩ = .ok (.frmBuild 0xA6 [0x02]) := by rfl
theorem test_decode_frmBuildc : decode ⟨.op, 0b00010001, .frame 0xA6 [0x02]⟩ = .ok (.frmBuildc 0xA6 [0x02]) := by rfl
theorem test_decode_frmParse : decode ⟨.op, 0b00010010, .bytes [0x08]⟩ = .ok (.frmParse [0x08]) := by rfl
theorem test_decode_frmParsec :
    decode ⟨.op, 0b00010011, .reports [[0x08], []]⟩ = .ok (.frmParsec [[0x08], []]) := by rfl
theorem test_decode_pstNew : decode ⟨.op, 0b00100000, .none⟩ = .ok .pstNew := by rfl
theorem test_decode_pstEnc : decode ⟨.op, 0b00100001, .preset lead⟩ = .ok (.pstEnc lead) := by rfl
theorem test_decode_pstDec : decode ⟨.op, 0b00100010, .bytes [0x01]⟩ = .ok (.pstDec [0x01]) := by rfl
theorem test_decode_pstSetp :
    decode ⟨.op, 0b00100011, .setParam lead .delay "time_ms" 5⟩ = .ok (.pstSetp lead .delay "time_ms" 5) := by rfl
theorem test_decode_modEncFx :
    decode ⟨.op, 0b00110000, .effect (someModule .fx 1 true 5)⟩ = .ok (.modEncFx (someModule .fx 1 true 5)) := by rfl
theorem test_decode_modEncOd :
    decode ⟨.op, 0b00110001, .effect (someModule .od 1 true 5)⟩ = .ok (.modEncOd (someModule .od 1 true 5)) := by rfl
theorem test_decode_modEncAmp :
    decode ⟨.op, 0b00110010, .effect (someModule .amp 1 true 5)⟩ = .ok (.modEncAmp (someModule .amp 1 true 5)) := by rfl
theorem test_decode_modEncCab :
    decode ⟨.op, 0b00110011, .effect (someModule .cab 1 true 5)⟩ = .ok (.modEncCab (someModule .cab 1 true 5)) := by rfl
theorem test_decode_modEncNs :
    decode ⟨.op, 0b00110100, .effect (someModule .ns 1 true 5)⟩ = .ok (.modEncNs (someModule .ns 1 true 5)) := by rfl
theorem test_decode_modEncEq :
    decode ⟨.op, 0b00110101, .effect (someModule .eq 1 true 5)⟩ = .ok (.modEncEq (someModule .eq 1 true 5)) := by rfl
theorem test_decode_modEncMod :
    decode ⟨.op, 0b00110110, .effect (someModule .mod 1 true 5)⟩ = .ok (.modEncMod (someModule .mod 1 true 5)) := by rfl
theorem test_decode_modEncDelay :
    decode ⟨.op, 0b00110111, .effect (someModule .delay 1 true 5)⟩ = .ok (.modEncDelay (someModule .delay 1 true 5)) := by rfl
theorem test_decode_modEncReverb :
    decode ⟨.op, 0b00111000, .effect (someModule .reverb 1 true 5)⟩ = .ok (.modEncReverb (someModule .reverb 1 true 5)) := by rfl
theorem test_decode_modDecFx : decode ⟨.op, 0b01000000, .bytes [0x18]⟩ = .ok (.modDecFx [0x18]) := by rfl
theorem test_decode_modDecOd : decode ⟨.op, 0b01000001, .bytes [0x18]⟩ = .ok (.modDecOd [0x18]) := by rfl
theorem test_decode_modDecAmp : decode ⟨.op, 0b01000010, .bytes [0x18]⟩ = .ok (.modDecAmp [0x18]) := by rfl
theorem test_decode_modDecCab : decode ⟨.op, 0b01000011, .bytes [0x18]⟩ = .ok (.modDecCab [0x18]) := by rfl
theorem test_decode_modDecNs : decode ⟨.op, 0b01000100, .bytes [0x18]⟩ = .ok (.modDecNs [0x18]) := by rfl
theorem test_decode_modDecEq : decode ⟨.op, 0b01000101, .bytes [0x18]⟩ = .ok (.modDecEq [0x18]) := by rfl
theorem test_decode_modDecMod : decode ⟨.op, 0b01000110, .bytes [0x18]⟩ = .ok (.modDecMod [0x18]) := by rfl
theorem test_decode_modDecDelay : decode ⟨.op, 0b01000111, .bytes [0x18]⟩ = .ok (.modDecDelay [0x18]) := by rfl
theorem test_decode_modDecReverb : decode ⟨.op, 0b01001000, .bytes [0x18]⟩ = .ok (.modDecReverb [0x18]) := by rfl
theorem test_decode_cmdIdentify : decode ⟨.cmd, 0b00010000, .query⟩ = .ok (.cmdIdentify (.request ())) := by rfl
theorem test_decode_cmdPreset : decode ⟨.cmd, 0b10000011, .number 5⟩ = .ok (.cmdPreset (.request 5)) := by rfl
theorem test_decode_cmdFx : decode ⟨.cmd, 0b10010000, .param 1 2⟩ = .ok (.cmdFx (.request (.set 1 2))) := by rfl
theorem test_decode_cmdOd : decode ⟨.cmd, 0b10010001, .toggle true⟩ = .ok (.cmdOd (.request (.toggle true))) := by rfl
theorem test_decode_cmdAmp : decode ⟨.cmd, 0b10010011, .param 1 2⟩ = .ok (.cmdAmp (.request (.set 1 2))) := by rfl
theorem test_decode_cmdCab : decode ⟨.cmd, 0b10010100, .param 1 2⟩ = .ok (.cmdCab (.request (.set 1 2))) := by rfl
theorem test_decode_cmdNs : decode ⟨.cmd, 0b10010101, .param 1 2⟩ = .ok (.cmdNs (.request (.set 1 2))) := by rfl
theorem test_decode_cmdEq : decode ⟨.cmd, 0b10010110, .param 1 2⟩ = .ok (.cmdEq (.request (.set 1 2))) := by rfl
theorem test_decode_cmdMod : decode ⟨.cmd, 0b10010111, .generic [0x07]⟩ = .ok (.cmdMod (.generic [0x07])) := by rfl
theorem test_decode_cmdDelay : decode ⟨.cmd, 0b10011000, .param 1 2⟩ = .ok (.cmdDelay (.request (.set 1 2))) := by rfl
theorem test_decode_cmdReverb :
    decode ⟨.cmd, 0b10011001, .param 1 2⟩ = .ok (.cmdReverb (.request (.set 1 2))) := by rfl
theorem test_decode_cmdSystem : decode ⟨.cmd, 0b10100001, .blob [0x01]⟩ = .ok (.cmdSystem (.request [0x01])) := by rfl
theorem test_decode_cmdVolume : decode ⟨.cmd, 0b10100010, .number 50⟩ = .ok (.cmdVolume (.request 50)) := by rfl
theorem test_decode_cmdActivePatch :
    decode ⟨.cmd, 0b10100110, .response [0x02]⟩ = .ok (.cmdActivePatch (.response [0x02])) := by rfl
theorem test_decode_cmdStorePatch :
    decode ⟨.cmd, 0b10101000, .store 7 [0x00]⟩ = .ok (.cmdStorePatch (.request ⟨7, [0x00]⟩)) := by rfl
theorem test_decode_unassigned :
    decode ⟨.op, 0x39, .none⟩ = .error (.noSuchOperation 0x39) ∧
    decode ⟨.op, 0x24, .none⟩ = .error (.noSuchOperation 0x24) ∧ decode ⟨.op, 0x83, .number 5⟩ = .error (.noSuchOperation 0x83) := by decide
theorem test_decode_unknown_command : decode ⟨.cmd, 0x92, .generic []⟩ = .error (.unknownCommand 0x92) := by decide
theorem test_decode_shape :
    decode ⟨.op, 0x20, .bytes []⟩ = .error .operandShape ∧ decode ⟨.op, 0x30, .effect (emptyModule .od)⟩ = .error .operandShape := by decide

/-! Table words: an op-select code is one, any other a command identifier (entry 11). -/

theorem test_table_op :
    decodeTableWord 8 0x00 = some (.cksum []) ∧ decodeTableWord 8 0x23 = some (.pstSetp emptyPreset .fx "header" 0) ∧
    decodeTableWord 8 0x38 = some (.modEncReverb (emptyModule .reverb)) ∧ decodeTableWord 8 0x48 = some (.modDecReverb []) := by decide +kernel
theorem test_table_cmd :
    decodeTableWord 8 0x83 = some (.cmdPreset (.request 0)) ∧ decodeTableWord 8 0x98 = some (.cmdDelay (.request (.set 0 0))) ∧
    decodeTableWord 8 0xA8 = some (.cmdStorePatch (.request ⟨0, zeros 512⟩)) ∧ decodeTableWord 8 0xFF = none := by decide +kernel
theorem test_table_overlap : decodeTableWord 8 0x10 = some (.frmBuild 0 []) := by decide +kernel
theorem test_first_step_after_reset :
    answerOf (step (State.reset.withFetchWord 8 0x20)) = some (.ok (.preset emptyPreset)) ∧
    answerOf (step (State.reset.withFetchWord 8 0x00)) = some (.ok (.word 0xFFFF)) ∧
    answerOf (step (State.reset.withFetchWord 8 0x12)) = some .noFrame := by decide +kernel
theorem test_store_request_is_first_step : ∃ a, answerOf (step (State.reset.withFetchWord 8 0xA8)) = some a := ⟨_, rfl⟩
theorem test_unassigned_word_is_refused : step (State.reset.withFetchWord 8 0xFF) = .refused (.noSuchOperation 0xFF) := rfl

/-! Vectors of 95_test_vectors.md, by their numbers there. -/

/-- K3. -/
theorem test_cksum_a6 : answers (.cksum [0xA6]) = some (.ok (.word 0xDEE9)) := by decide +kernel
/-- K4. -/
theorem test_cksum_a6_02_00 : answers (.cksum [0xA6, 0x02, 0x00]) = some (.ok (.word 0xE3F8)) := by decide +kernel
/-- B6. -/
theorem test_build_delay_param :
    answers (.frmBuild 0x98 [0x01, 0x01]) = some (.ok (.report ([0x09, 0xAA, 0x55, 0x03, 0x00, 0x98, 0x01, 0x01, 0x1A, 0x32] ++ zeros 54))) := by decide +kernel
/-- B8. -/
theorem test_build_57_bytes : answers (.frmBuild 0x90 (zeros 57)) = some (.frameTooLong 57) := by decide +kernel
/-- C3. -/
theorem test_buildc_57_bytes :
    (reportsOf (answers (.frmBuildc 0x90 ((List.range 57).map (BitVec.ofNat 8))))).map (fun r => slice r 61 64) =
      [[0x37, 0x38, 0xE6], [0, 0, 0]] ∧
    (reportsOf (answers (.frmBuildc 0x90 ((List.range 57).map (BitVec.ofNat 8))))).drop 1 = [[0x01, 0x07] ++ zeros 62] := by decide +kernel
/-- C6, C7. -/
theorem test_buildc_split :
    (reportsOf (answers (.frmBuildc 0x90 (zeros 119)))).map (fun r => byteAt r 0) = [0x3F, 0x3F] ∧
    (reportsOf (answers (.frmBuildc 0x90 (zeros 120)))).map (fun r => byteAt r 0) = [0x3F, 0x3F, 0x01] := by decide +kernel
/-- P6. -/
theorem test_parse_len_not_compared :
    answers (.frmParse (reportG.set 0 0x07)) = some (.ok (.frame ⟨0xA6, [0x02]⟩)) := by decide +kernel
/-- P12, P15, P3, P5. -/
theorem test_parse_rejects :
    answers (.frmParse (reportG.set 4 0x01)) = some .noFrame ∧ answers (.frmParse (reportG.set 6 0x03)) = some .noFrame ∧
    answers (.frmParse (reportG.take 8)) = some .noFrame ∧ answers (.frmParse (reportG.set 0 0x06)) = some .noFrame := by decide +kernel
/-- Q4. -/
theorem test_parsec_zero_length_report :
    answers (.frmParsec [chunkReport [0xAA, 0x55, 0x02, 0x00], chunkReport [], chunkReport [0xA6, 0x02, 0x65, 0x68]]) = some (.ok (.frame ⟨0xA6, [0x02]⟩)) := by decide +kernel
/-- Q13, Q8, Q11, Q5. -/
theorem test_parsec_rejects :
    answers (.frmParsec [reportG.set 0 0x07]) = some .noFrame ∧ answers (.frmParsec [reportG.set 0 0x40]) = some .noFrame ∧
    answers (.frmParsec [[]]) = some .noFrame ∧ answers (.frmParsec []) = some .noFrame := by decide +kernel
/-- T1. -/
theorem test_pst_new : answers .pstNew = some (.ok (.preset emptyPreset)) := by decide +kernel
/-- T1. -/
theorem test_pst_enc_new :
    answers (.pstEnc emptyPreset) = some (.ok (.record (((zeros 512).set 10 0x01).set 11 0xF4))) := by decide +kernel
/-- T7. -/
theorem test_pst_enc_dec :
    presetEncode Config.testConfiguration (presetDecode (((((((zeros 512).set 10 0xAB).set 11 0xCD).set 12 0x42).set 13 0x41
      |>.set 15 0x43).set 130 0x80).set 200 0x55)) =
      ((((zeros 512).set 10 0x01).set 11 0xF4).set 12 0x42 |>.set 13 0x41).set 130 0x01 := by decide +kernel
/-- T5. -/
theorem test_pst_dec_short :
    answers (.pstDec [9, 8, 7, 6, 5, 4, 3, 2, 1, 0, 0xFF, 0xFF, 0x48, 0x69]) = some (.ok (.preset { emptyPreset with effectOrder := [9, 8, 7, 6, 5, 4, 3, 2, 1, 0], name := [0x48, 0x69] })) := by decide +kernel
/-- T15: record bytes 4 and 5 are body bytes 1 and 2. -/
theorem test_setp_time :
    answers (.pstSetp emptyPreset .delay "time_ms" 0x1234) = some (.ok (.preset { emptyPreset with
      delay := { emptyModule .delay with body := [0, 0x34, 0x12, 0, 0, 0, 0, 0, 0, 0, 0, 0, 0, 0] } })) := by decide +kernel
/-- T17, T19, T20, T21. -/
theorem test_setp_refuses :
    answers (.pstSetp emptyPreset .delay "time_ms" 65536) = some (.valueRange "time_ms" 0 65535 65536) ∧
    answers (.pstSetp emptyPreset .fx "time_ms" 5) = some (.unknownField .fx "time_ms") ∧
    answers (.pstSetp emptyPreset .amp "type" 256) = some (.valueRange "type" 0 255 256) ∧
    answers (.pstSetp emptyPreset .amp "gain" 5) = some (.unknownField .amp "gain") := by decide +kernel
/-- The table of section 2.7. -/
theorem test_modenc_fx :
    answers (.modEncFx (someModule .fx 0x10 true 0x05)) = some (.ok (.effectRecord .fx ([0x10, 0x01, 0x05] ++ zeros 10))) := by decide +kernel
/-- The table of section 2.7. -/
theorem test_modenc_od :
    answers (.modEncOd (someModule .od 0x11 true 0x05)) = some (.ok (.effectRecord .od ([0x11, 0x01, 0x05] ++ zeros 8))) := by decide +kernel
/-- The table of section 2.7. -/
theorem test_modenc_amp :
    answers (.modEncAmp (someModule .amp 0x12 true 0x05)) = some (.ok (.effectRecord .amp ([0x12, 0x01, 0x05] ++ zeros 14))) := by decide +kernel
/-- The table of section 2.7. -/
theorem test_modenc_cab :
    answers (.modEncCab (someModule .cab 0x13 true 0x05)) = some (.ok (.effectRecord .cab ([0x13, 0x01, 0x05] ++ zeros 10))) := by decide +kernel
/-- The table of section 2.7. -/
theorem test_modenc_ns :
    answers (.modEncNs (someModule .ns 0x14 true 0x05)) = some (.ok (.effectRecord .ns ([0x14, 0x01, 0x05] ++ zeros 8))) := by decide +kernel
/-- The table of section 2.7. -/
theorem test_modenc_eq :
    answers (.modEncEq (someModule .eq 0x15 true 0x05)) = some (.ok (.effectRecord .eq ([0x15, 0x01, 0x05] ++ zeros 20))) := by decide +kernel
/-- The table of section 2.7. -/
theorem test_modenc_mod :
    answers (.modEncMod (someModule .mod 0x16 true 0x05)) = some (.ok (.effectRecord .mod ([0x16, 0x01, 0x05] ++ zeros 12))) := by decide +kernel
/-- The table of section 2.7. -/
theorem test_modenc_delay :
    answers (.modEncDelay (someModule .delay 0x17 true 0x05)) = some (.ok (.effectRecord .delay ([0x17, 0x01, 0x05] ++ zeros 14))) := by decide +kernel
/-- The table of section 2.7. -/
theorem test_modenc_reverb :
    answers (.modEncReverb (someModule .reverb 0x18 true 0x05)) = some (.ok (.effectRecord .reverb ([0x18, 0x01, 0x05] ++ zeros 10))) := by decide +kernel
/-- M4. -/
theorem test_moddec_fx :
    answers (.modDecFx ((List.range 20).map (BitVec.ofNat 8))) = some (.ok (.effect .fx ⟨0, true, 2, [3, 4, 5, 6, 7, 8, 9, 10, 11, 12]⟩)) := by decide +kernel
/-- M2. -/
theorem test_moddec_od :
    answers (.modDecOd [0x01, 0xFF]) = some (.ok (.effect .od (someModule .od 0x01 true 0))) := by decide +kernel
/-- The table of section 2.7, decoded. -/
theorem test_moddec_amp :
    answers (.modDecAmp ([0x12, 0x01, 0x05] ++ zeros 14)) = some (.ok (.effect .amp (someModule .amp 0x12 true 0x05))) := by decide +kernel
/-- The table of section 2.7, decoded. -/
theorem test_moddec_cab :
    answers (.modDecCab ([0x13, 0x01, 0x05] ++ zeros 10)) = some (.ok (.effect .cab (someModule .cab 0x13 true 0x05))) := by decide +kernel
/-- The table of section 2.7, decoded. -/
theorem test_moddec_ns :
    answers (.modDecNs ([0x14, 0x01, 0x05] ++ zeros 8)) = some (.ok (.effect .ns (someModule .ns 0x14 true 0x05))) := by decide +kernel
/-- The table of section 2.7, decoded. -/
theorem test_moddec_mod :
    answers (.modDecMod ([0x16, 0x01, 0x05] ++ zeros 12)) = some (.ok (.effect .mod (someModule .mod 0x16 true 0x05))) := by decide +kernel
/-- M6. -/
theorem test_moddec_eq :
    answers (.modDecEq ([0x15, 0x00, 0x01, 1, 2, 3, 4, 5, 6, 7, 8, 9, 10, 11, 12] ++ List.replicate 8 0xEE)) = some (.ok (.effect .eq ⟨0x15, false, 0x01, [1, 2, 3, 4, 5, 6, 7, 8, 9, 10, 11, 12] ++ List.replicate 8 0xEE⟩)) := by decide +kernel
/-- M6, the typed views. -/
theorem test_eq_bands :
    eqBandsA Config.testConfiguration ⟨0x15, false, 1, [1, 2, 3, 4, 5, 6, 7, 8, 9, 10, 11, 12] ++ zeros 8⟩ = [1, 2, 3, 4, 5, 6] ∧
    eqBandsB Config.testConfiguration ⟨0x15, false, 1, [1, 2, 3, 4, 5, 6, 7, 8, 9, 10, 11, 12] ++ zeros 8⟩ = [7, 8, 9, 10, 11, 12] := by decide +kernel
/-- M5. -/
theorem test_moddec_delay :
    answers (.modDecDelay [0x17, 0x01, 0x02, 0xAA, 0x34, 0x12]) = some (.ok (.effect .delay ⟨0x17, true, 0x02, [0xAA, 0x34, 0x12] ++ zeros 11⟩)) := by decide +kernel
/-- M5, the typed view. -/
theorem test_delay_time :
    delayTime Config.testConfiguration ⟨0x17, true, 0x02, [0xAA, 0x34, 0x12] ++ zeros 11⟩ = 4660 := by decide +kernel
/-- M1. -/
theorem test_moddec_reverb :
    answers (.modDecReverb [0x18, 0x01, 0x05]) = some (.ok (.effect .reverb (someModule .reverb 0x18 true 0x05))) := by decide +kernel
/-- T10. -/
theorem test_name_codec :
    answers (.pstEnc { emptyPreset with name := [0x41, 0xC3, 0xA9, 0x42] }) = some (.ok (.record ([0, 0, 0, 0, 0, 0, 0, 0, 0, 0, 0x01, 0xF4, 0x41, 0x3F, 0x3F, 0x42] ++ zeros 496))) := by decide +kernel
/-- X1. -/
theorem test_select_preset :
    answers (.cmdActivePatch (.request 2)) = some (.ok (.reports [reportG])) := by decide +kernel
/-- X4, B4. -/
theorem test_read_preset :
    answers (.cmdPreset (.request 5)) = some (.ok (.reports [[0x08, 0xAA, 0x55, 0x02, 0x00, 0x83, 0x05, 0x49, 0xDB] ++ zeros 55])) := by decide +kernel
/-- X5, B5. -/
theorem test_volume :
    answers (.cmdVolume (.request 50)) = some (.ok (.reports [[0x08, 0xAA, 0x55, 0x02, 0x00, 0xA2, 0x32, 0x88, 0x72] ++ zeros 55])) := by decide +kernel
/-- R213 with B2. -/
theorem test_identify :
    answers (.cmdIdentify (.request ())) = some (.ok (.reports [[0x07, 0xAA, 0x55, 0x01, 0x00, 0x10, 0x6E, 0x6C] ++ zeros 56])) := by decide +kernel
/-- R214 with B3. -/
theorem test_system :
    answers (.cmdSystem (.request [])) = some (.ok (.reports [[0x07, 0xAA, 0x55, 0x01, 0x00, 0xA1, 0x9C, 0x5C] ++ zeros 56])) := by decide +kernel
/-- X8. -/
theorem test_od_param :
    answers (.cmdOd (.request (.set 0 127))) = some (.ok (.reports [[0x09, 0xAA, 0x55, 0x03, 0x00, 0x91, 0x00, 0x7F, 0xD3, 0xCF] ++ zeros 54])) := by decide +kernel
/-- X7. -/
theorem test_delay_param :
    answers (.cmdDelay (.request (.set 1 1))) = some (.ok (.reports [[0x09, 0xAA, 0x55, 0x03, 0x00, 0x98, 0x01, 0x01, 0x1A, 0x32] ++ zeros 54])) := by decide +kernel
/-- X10. -/
theorem test_fx_param_range :
    answers (.cmdFx (.request (.set 0 256))) = some (.boundary (.valueRange 256)) := by decide +kernel
/-- X12, X13. -/
theorem test_store_refuses :
    answers (.cmdStorePatch (.request ⟨7, zeros 100⟩)) = some (.boundary (.storeSize 100)) ∧
    answers (.cmdStorePatch (.request ⟨200, zeros 100⟩)) = some (.boundary (.slotRange 200)) := by decide +kernel
/-- X17. -/
theorem test_identify_response :
    answers (.cmdIdentify (.response [0x01, 0x00, 0x02, 0x00, 0x05, 0x47, 0x45, 0x31, 0x35, 0x30, 0x50, 0x72, 0x6F, 0, 0, 0])) = some (.ok (.response (.identify [0x01, 0x00, 0x02, 0x00, 0x05] [0x47, 0x45, 0x31, 0x35, 0x30, 0x50, 0x72, 0x6F]))) := by decide +kernel
/-- X14. -/
theorem test_active_patch_response :
    answers (.cmdActivePatch (.response [0x02])) = some (.ok (.response (.activePatch 2))) := by decide +kernel
/-- X16. -/
theorem test_volume_response_empty :
    answers (.cmdVolume (.response [])) = some (.ok (.response (.untyped ⟨0xA2, []⟩))) := by decide +kernel
/-- X9. -/
theorem test_unknown_module :
    callAnswers (.effectParam "wah" 0 0) = some (.boundary (.unknownModule "wah")) := by decide +kernel
/-- R215, with the integers of R206 (entry 25). -/
theorem test_build_command_integers :
    callAnswers (.buildCommand 256 []) = some (.boundary (.unknownCommand 256)) ∧
    callAnswers (.buildCommand (-1) []) = some (.boundary (.unknownCommand (-1))) ∧
    callAnswers (.buildCommand 0x10 []) = answers (.frmBuildc 0x10 []) := by decide +kernel
/-- X21. -/
theorem test_unknown_response :
    callAnswers (.txn ⟨.cmd, 0x42, .response []⟩) = some (.ok (.response (.untyped ⟨0x42, []⟩))) := by decide +kernel
/-- X23. -/
theorem test_import_mo_short :
    callAnswers (.importMo (zeros 1023)) = some (.boundary (.fileSize 1024 1023)) := by decide +kernel
/-- X26. -/
theorem test_import_mbf :
    presetsOf (callAnswers (.importMbf (zeros (44 + 546 + 545)))) = [emptyPreset] := by decide +kernel
/-- X28. -/
theorem test_gnr :
    callAnswers (.parseGnrHeader ([0x6D, 0x6F, 0x6F, 0x65, 0x72, 0x67, 0x65, 0x00, 8, 0, 0, 0] ++ [0x74, 0x65, 0x73, 0x74, 0x69, 0x6E, 0x66, 0x6F, 0, 0, 0, 0])) = some (.ok (.gnr ⟨8, [0x74, 0x65, 0x73, 0x74, 0x69, 0x6E, 0x66, 0x6F], 20⟩)) := by decide +kernel
/-- X29. -/
theorem test_gnr_clamped :
    callAnswers (.parseGnrHeader [0x6D, 0x6F, 0x6F, 0x65, 0x72, 0x67, 0x65, 0x00, 0xFF, 0, 0, 0, 0x41, 0x42]) = some (.ok (.gnr ⟨255, [0x41, 0x42], 267⟩)) := by decide +kernel
/-- X30. -/
theorem test_gnr_bad_magic :
    callAnswers (.parseGnrHeader [0x6D, 0x6F, 0x6F, 0x65, 0x72, 0x67, 0x58, 0x00, 0, 0, 0, 0]) = some (.boundary .badMagic) := by decide +kernel
/-- X31. -/
theorem test_gnr_short :
    callAnswers (.parseGnrHeader (zeros 11)) = some (.boundary (.fileSize 12 11)) := by decide +kernel

/-! Witnesses: the hypotheses of each obligation, met by a concrete state and operands. -/

/-- TC with the operation CKSUM [A6, 02] issued. -/
def tcCksum : State := tc.withPending [.txn ⟨.op, 0x00, .bytes [0xA6, 0x02]⟩, .importMo []]

theorem tc_params_valid : tc.params.valid = true := by decide

theorem lead_valid : lead.valid = true ∧ lead.wf = true := by decide

theorem witness_StepKeepsInvariant : tcCksum.Inv ∧ ∃ t, step tcCksum = .next t ∧ t.answer = some (.ok (.word 0x6865)) :=
  ⟨⟨rfl, rfl, tc_params_valid, by simp [tcCksum, tc, State.reset, State.withPending]⟩, _, rfl, by decide +kernel⟩

theorem witness_StepRunsDecodedInstruction :
    tcCksum.pending = .txn ⟨.op, 0x00, .bytes [0xA6, 0x02]⟩ :: [.importMo []] ∧
    decode ⟨.op, 0x00, .bytes [0xA6, 0x02]⟩ = .ok (.cksum [0xA6, 0x02]) := ⟨rfl, rfl⟩

theorem witness_IdleStepChangesNothing : tc.pending = [] := rfl

theorem witness_StepTakesCallsInOrder :
    tcCksum.pending = .txn ⟨.op, 0x00, .bytes [0xA6, 0x02]⟩ :: [.importMo []] ∧ ∃ t, step tcCksum = .next t := ⟨rfl, _, rfl⟩

theorem witness_ParametersNeverChange : ∃ t, step tcCksum = .next t ∧ t ≠ tcCksum := by
  refine ⟨_, rfl, fun h => ?_⟩
  have := congrArg State.pending h
  simp [tcCksum, State.done, State.withPending] at this

theorem witness_OutcomeDependsOnOperandsAndParameters : tc.params = tcCksum.params ∧ tc ≠ tcCksum :=
  ⟨rfl, fun h => by simpa [tcCksum, tc, State.reset, State.withPending] using congrArg State.pending h⟩

/-- Both directions: a transaction that decodes, and a well-formed instruction with its encoding. -/
theorem witness_DecodeAndEncodeAgree :
    decode ⟨.op, 0x23, .setParam lead .eq "band0" 50⟩ = .ok (.pstSetp lead .eq "band0" 50) ∧
    Instr.wf (.pstSetp lead .eq "band0" 50) = true ∧
    encode (.pstSetp lead .eq "band0" 50) = ⟨.op, 0x23, .setParam lead .eq "band0" 50⟩ := ⟨rfl, rfl, rfl⟩

/-- Codes beside the assigned ones, and an assigned one. -/
theorem witness_UnassignedOpSelectIsRefused :
    (0x01 : Byte) ∉ opSelectCodes ∧ (0x39 : Byte) ∉ opSelectCodes ∧ (0x49 : Byte) ∉ opSelectCodes ∧
    (0xFF : Byte) ∉ opSelectCodes ∧ (0x48 : Byte) ∈ opSelectCodes := by decide

theorem witness_CksumReferenceVector : tcCksum.params = tc.params := rfl

/-- The test fixture meets R93, and a step off the reference vector. -/
theorem witness_VendorStepIsFreeButForReference :
    fixtureStep (fixtureStep 0xFFFF 0xA6) 0x02 = 0x6865 ∧
    ¬ ((0x0000 : Word) = fixtureStep 0xFFFF 0xA6 ∧ (0x02 : Byte) = 0x02) := by decide +kernel

theorem witness_BuildFrameLayout : (zeros 56).length ≤ 56 ∧ (zeros 0).length ≤ 56 := by decide

theorem witness_BuildFrameRefusesLongPayload : (zeros 57).length > 56 := by decide

theorem witness_BuildFrameReportProperties : ∃ r, Completes (.frmBuild 0x90 (zeros 56)) tc (.ok (.report r)) :=
  ⟨_, completes_done rfl⟩

theorem witness_BuildChunkedReports : (zeros 65534).length ≤ 65534 ∧ (zeros 0).length ≤ 65534 := by simp

theorem witness_BuildChunkedCounts : ∃ rs, Completes (.frmBuildc 0x90 (zeros 57)) tc (.ok (.reports rs)) :=
  ⟨_, completes_done rfl⟩

theorem witness_BuildChunkedSingleIsBuildFrame : (zeros 56).length ≤ 56 := by decide

theorem witness_BuildChunkedRefusesLongPayload : (zeros 65535).length > 65534 := by simp

/-- Message M of section 2.5 in two slices, with two surplus bytes. -/
theorem witness_ParsecAcceptsAnySlicing :
    [(0x02 : Byte)].length ≤ 65534 ∧
    (∀ r ∈ [chunkReport [0xAA], chunkReport [0x55, 0x02, 0x00, 0xA6, 0x02, 0x65, 0x68, 0xDE, 0xAD]],
      suppliesDeclared r = true) ∧
    reassembledBuffer [chunkReport [0xAA], chunkReport [0x55, 0x02, 0x00, 0xA6, 0x02, 0x65, 0x68, 0xDE, 0xAD]] =
      encodeMsg tc.crc16 0xA6 [0x02] ++ [0xDE, 0xAD] := by decide +kernel

theorem witness_ParseAndParsecAgree :
    (byteAt reportG 0).toNat = 6 + (le16 reportG 3).toNat := by decide +kernel

theorem witness_BuildThenParse : (zeros 56).length ≤ 56 ∧ tcCksum.params = tc.params := ⟨by decide, rfl⟩

theorem witness_BuildChunkedThenParsec : (zeros 65534).length ≤ 65534 ∧ tcCksum.params = tc.params := ⟨by simp, rfl⟩

theorem witness_PresetRecordLayout : lead.wf = true := lead_valid.2

/-- Two buffers that differ in the size field and in the tail only. -/
theorem witness_PresetDecodeIgnoresSizeFieldAndTail :
    (∀ i, i < 159 → i ≠ 10 → i ≠ 11 →
      byteAt ((zeros 512).set 10 0xAB |>.set 159 0x55) i = byteAt ((zeros 512).set 11 0xCD) i) ∧
    byteAt ((zeros 512).set 10 0xAB |>.set 159 0x55) 10 ≠ byteAt ((zeros 512).set 11 0xCD) 10 := by
  refine ⟨fun i h h1 h2 => ?_, by decide +kernel⟩
  rw [byteAt_set, byteAt_set, byteAt_set, if_neg (by omega), if_neg (by omega), if_neg (by omega)]

theorem witness_PresetRoundTrip : lead.valid = true := lead_valid.1

/-- A record with a null inside the name, at its first byte and after its last one. -/
theorem witness_PresetByteRoundTrip :
    (zeros 512).length = 512 ∧ byteAt ((zeros 512).set 12 0x42) 13 = 0 ∧ byteAt ((zeros 512).set 12 0x42) 12 ≠ 0 ∧
    byteAt (zeros 512) 12 = 0 := by decide +kernel

theorem witness_NameCodecRoundTrip : validName [] = true ∧ validName (List.replicate 14 0x41) = true := by decide

theorem witness_SetParamCompletes :
    findField tc.params .delay "time_ms" = some ⟨"time_ms", 4, 2⟩ ∧ (0 : Int) ≤ 65535 ∧ (65535 : Int) < 256 ^ 2 ∧
    findField tc.params .ns "type" = some ⟨"type", 2, 1⟩ ∧ (255 : Int) < 256 ^ 1 := by decide +kernel

/-- TC with open entries of two bytes over the header's bytes: at 0 (with the enabled flag), 1 and 2. -/
def tcOpen : State :=
  { tc with params := { Config.testConfiguration with
      extraFields := [(.amp, ⟨"low", 0, 2⟩), (.amp, ⟨"mid", 1, 2⟩), (.amp, ⟨"gain", 2, 2⟩)] } }

/-- A body field at the record's end, open entries below offset 3 on either side of byte 1, the ends of the ranges. -/
theorem witness_SetParamWritesOneField :
    lead.wf = true ∧ tcOpen.params.valid = true ∧
    (findField tcOpen.params .eq "band11" = some ⟨"band11", 14, 1⟩ ∧ 14 + 1 ≤ ModuleKind.eq.size ∧ (255 : Int) < 256 ^ 1) ∧
    findField tcOpen.params .amp "low" = some ⟨"low", 0, 2⟩ ∧ findField tcOpen.params .amp "mid" = some ⟨"mid", 1, 2⟩ ∧
    (findField tcOpen.params .amp "gain" = some ⟨"gain", 2, 2⟩ ∧ 2 ≤ 2 ∧ 2 + 2 ≤ ModuleKind.amp.size ∧
      (0 : Int) ≤ 0 ∧ (65535 : Int) < 256 ^ 2) ∧
    (findField tcOpen.params .amp "header" = some ⟨"header", 0, 1⟩ ∧ 0 + 1 ≤ 1) := by decide +kernel

theorem witness_SetParamHeaderFields : lead.wf = true ∧ (0 : Int) ≤ 0 ∧ (0 : Int) ≤ 255 ∧ (255 : Int) ≤ 255 :=
  ⟨lead_valid.2, by decide, by decide, by decide⟩

theorem witness_SetParamTimeAndBands :
    lead.wf = true ∧ tc.params.valid = true ∧ ((0 : Int) ≤ 0 ∧ (65535 : Int) ≤ 65535) ∧ (255 : Int) ≤ 255 :=
  ⟨lead_valid.2, tc_params_valid, by decide, by decide⟩

/-- A name in no table, a value on either side of a range, valid parameters with open entries, 65536 and -1. -/
theorem witness_SetParamRefusals :
    (∀ e ∈ fieldTable tc.params .amp, e.name ≠ "gain") ∧
    (findField tc.params .amp "type" = some ⟨"type", 2, 1⟩ ∧ ((256 : Int) ≥ 256 ^ 1 ∧ (-1 : Int) < 0)) ∧
    (tcOpen.params.valid = true ∧ ModuleKind.amp ≠ .delay ∧ ModuleKind.amp ≠ .eq) ∧ (65535 : Int) < 65536 := by decide +kernel

theorem witness_TypedViewsReadWhatIsSet :
    Config.testConfiguration.valid = true ∧ (emptyModule .delay).wf .delay = true ∧ (emptyModule .eq).wf .eq = true ∧
    (zeros 6).length = 6 := by decide

theorem witness_ModuleEncodeRecords : (someModule .fx 0x10 true 5).wf .fx = true := by decide

theorem witness_ModuleRoundTrip : (someModule .eq 0x15 true 5).wf .eq = true ∧ (zeros 23).length = ModuleKind.eq.size := by
  decide

theorem witness_SlotRequests :
    ((0 : Int) ≤ 0 ∧ (0 : Int) ≤ 199) ∧ ((0 : Int) ≤ 199 ∧ (199 : Int) ≤ 199) ∧ (-1 : Int) < 0 ∧ (199 : Int) < 200 := by decide

theorem witness_StoreRequest :
    ((0 : Int) ≤ 199 ∧ (199 : Int) ≤ 199 ∧ (zeros 512).length = 512) ∧ ((199 : Int) < 200 ∧ (-1 : Int) < 0) ∧
    ((0 : Int) ≤ 0 ∧ (0 : Int) ≤ 199 ∧ (zeros 511).length ≠ 512) := by decide +kernel

theorem witness_ModuleParamRequests :
    ((0 : Int) ≤ 0 ∧ (0 : Int) ≤ 255 ∧ (0 : Int) ≤ 255 ∧ (255 : Int) ≤ 255) ∧ ((-1 : Int) < 0 ∧ (255 : Int) < 256) := by
  decide

theorem witness_ModuleParamByName : ∀ k, "wah" ≠ moduleName k := by
  intro k
  cases k <;> decide +kernel

theorem witness_VolumeRequest :
    ((0 : Int) ≤ 0 ∧ (0 : Int) ≤ 100) ∧ ((0 : Int) ≤ 100 ∧ (100 : Int) ≤ 100) ∧ (-1 : Int) < 0 ∧ (100 : Int) < 101 := by decide

theorem witness_IdentifyAndSystemRequests : tc.params.identifyRequestPayload = [] := rfl

/-- Bytes in and beside the enumeration, integers beside it and beyond a byte, payloads at both bounds. -/
theorem witness_GenericBuildChecksTheEnumeration :
    (0x10 : Byte) ∈ commandIds ∧ (0x92 : Byte) ∉ commandIds ∧
    (∀ c ∈ commandIds, (0x92 : Int) ≠ c.toNat) ∧ (∀ c ∈ commandIds, (256 : Int) ≠ c.toNat) ∧
    (∀ c ∈ commandIds, (-1 : Int) ≠ c.toNat) ∧ (zeros 65534).length ≤ 65534 ∧ 65534 < (zeros 65535).length ∧
    (zeros 56).length ≤ 56 ∧ 56 < (zeros 57).length := by
  refine ⟨by decide, by decide, by decide, by decide, by decide, ?_, ?_, ?_, ?_⟩ <;> simp

/-- The bounds of the Identify branch, and a frame without payload. -/
theorem witness_ResponseParserDispatch :
    Frame.wf ⟨0x10, zeros 16⟩ = true ∧ Frame.wf ⟨0x10, zeros 15⟩ = true ∧ Frame.wf ⟨0xA6, []⟩ = true := by decide

theorem witness_MoFileExportAndImport : lead.wf = true ∧ (zeros 0x3FF).length < 0x400 ∧ 0x400 ≤ (zeros 0x400).length := by
  refine ⟨lead_valid.2, ?_, ?_⟩ <;> simp

theorem witness_MbfRoundTrip :
    (List.replicate 199 lead).length ≤ 199 ∧ (∀ p ∈ List.replicate 199 lead, p.valid = true) ∧ tc.params.valid = true := by
  refine ⟨(List.length_replicate ..).le, fun p hp => ?_, tc_params_valid⟩
  rw [List.eq_of_mem_replicate hp]
  exact lead_valid.1

theorem witness_MbfSizes :
    (List.replicate 200 lead).length > 199 ∧ (∀ p ∈ List.replicate 200 lead, p.wf = true) ∧ (zeros 43).length < 44 ∧
    44 ≤ (zeros 44).length := by
  refine ⟨by rw [List.length_replicate]; decide, fun p hp => ?_, by simp, by simp⟩
  rw [List.eq_of_mem_replicate hp]
  exact lead_valid.2

/-- 198 presets and so one absent entry, none, and parameters whose size field is not 0. -/
theorem witness_MbfFileLayout :
    (List.replicate 198 lead).length ≤ 199 ∧ (∀ p ∈ List.replicate 198 lead, p.wf = true) ∧
    ([] : List Preset).length ≤ 199 ∧ tc.params.valid = true ∧ tc.params.sizeFieldValue ≠ 0 := by
  refine ⟨by rw [List.length_replicate]; decide, fun p hp => ?_, by decide, tc_params_valid, by decide⟩
  rw [List.eq_of_mem_replicate hp]
  exact lead_valid.2

end Sys2Proof.Tests
end

section
/-! SUPPORT. What the decoder answers is well-formed: an instruction whose operands have their types (R80, R256). -/

namespace Sys2Proof

variable {x : Operands} {i : Instr}

theorem takeNone_ok_wf {j : Instr} (h : takeNone x j = .ok i) (hj : j.wf = true) : i.wf = true := by
  obtain ⟨-, rfl⟩ := (takeNone_ok x j i).mp h
  exact hj

theorem takeBytes_ok_wf {f : Bytes → Instr} (h : takeBytes x f = .ok i) (hf : ∀ b, (f b).wf = true) :
    i.wf = true := by
  obtain ⟨b, -, rfl⟩ := (takeBytes_ok x f i).mp h
  exact hf b

theorem takeFrame_ok_wf {f : Byte → Bytes → Instr} (h : takeFrame x f = .ok i) (hf : ∀ c P, (f c P).wf = true) :
    i.wf = true := by
  obtain ⟨c, P, -, rfl⟩ := (takeFrame_ok x f i).mp h
  exact hf c P

theorem takeReports_ok_wf {f : List Bytes → Instr} (h : takeReports x f = .ok i) (hf : ∀ rs, (f rs).wf = true) :
    i.wf = true := by
  obtain ⟨rs, -, rfl⟩ := (takeReports_ok x f i).mp h
  exact hf rs

theorem takePreset_ok_wf {f : Preset → Instr} (h : takePreset x f = .ok i) (hf : ∀ p, (f p).wf = p.wf) :
    i.wf = true := by
  obtain ⟨p, -, hp, rfl⟩ := (takePreset_ok x f i).mp h
  exact (hf p).trans hp

theorem takeSetParam_ok_wf {f : Preset → ModuleKind → String → Int → Instr} (h : takeSetParam x f = .ok i)
    (hf : ∀ p k field v, (f p k field v).wf = p.wf) : i.wf = true := by
  obtain ⟨p, k, field, v, -, hp, rfl⟩ := (takeSetParam_ok x f i).mp h
  exact (hf p k field v).trans hp

theorem takeModule_ok_wf {k : ModuleKind} {f : EffectModule → Instr} (h : takeModule k x f = .ok i)
    (hf : ∀ m, (f m).wf = m.wf k) : i.wf = true := by
  obtain ⟨m, -, hm, rfl⟩ := (takeModule_ok k x f i).mp h
  exact (hf m).trans hm

theorem takeUse_ok_wf {α : Type} {args : Operands → Option α} {request : α → Operands} (hr : RequestForm args request)
    {f : CmdUse α → Instr} (h : takeUse args x f = .ok i) (hf : ∀ u, (f u).wf = u.wf) : i.wf = true := by
  obtain ⟨u, -, hu, rfl⟩ := (takeUse_ok hr x f i).mp h
  exact (hf u).trans hu

theorem decodeOp_ok_wf {code : Byte} (h : decodeOp code x = .ok i) : i.wf = true := by
  unfold decodeOp at h
  split at h
  case h_1 | h_4 | h_8 => exact takeBytes_ok_wf h fun _ => rfl
  case h_2 | h_3 => exact takeFrame_ok_wf h fun _ _ => rfl
  case h_5 => exact takeReports_ok_wf h fun _ => rfl
  case h_6 => exact takeNone_ok_wf h rfl
  case h_7 => exact takePreset_ok_wf h fun _ => rfl
  case h_9 => exact takeSetParam_ok_wf h fun _ _ _ _ => rfl
  case h_10 | h_11 | h_12 | h_13 | h_14 | h_15 | h_16 | h_17 | h_18 => exact takeModule_ok_wf h fun _ => rfl
  case h_19 | h_20 | h_21 | h_22 | h_23 | h_24 | h_25 | h_26 | h_27 => exact takeBytes_ok_wf h fun _ => rfl
  case h_28 => cases h

theorem decodeCmd_ok_wf {id : Byte} (h : decodeCmd id x = .ok i) : i.wf = true := by
  unfold decodeCmd at h
  split at h
  case h_1 => exact takeUse_ok_wf query_form h fun _ => rfl
  case h_2 | h_13 | h_14 => exact takeUse_ok_wf number_form h fun _ => rfl
  case h_3 | h_4 | h_5 | h_6 | h_7 | h_8 | h_9 | h_10 | h_11 => exact takeUse_ok_wf param_form h fun _ => rfl
  case h_12 => exact takeUse_ok_wf blob_form h fun _ => rfl
  case h_15 => exact takeUse_ok_wf store_form h fun _ => rfl
  case h_16 => cases h

/-- The decoder is the port's type check: an operation never runs on operands that are not of its types (R36, R256). -/
theorem decode_ok_wf {t : Txn} (h : decode t = .ok i) : i.wf = true := by
  obtain ⟨space, code, y⟩ := t
  cases space with
  | op => exact decodeOp_ok_wf h
  | cmd => exact decodeCmd_ok_wf h

end Sys2Proof
end

section
/-! SUPPORT. Each meaning's outcome has its shape and records a value for which its cause holds (R80, R246, R247): one
lemma for each outcome function of the model, by the cases that Laws/ gives it. -/

namespace Sys2Proof.Machine

variable (c : Params)

theorem not_inRange_iff (lo hi v : Int) : (!inRange lo hi v) = true ↔ v < lo ∨ v > hi := by
  simp only [inRange, Bool.not_eq_true', Bool.and_eq_false_iff, decide_eq_false_iff_not, not_le, gt_iff_lt]

theorem mem_moduleKind_all (k : ModuleKind) : k ∈ ModuleKind.all := by cases k <;> decide

/-- An integer that is no byte is none of the fifteen identifiers (R215, entry 25). -/
theorem unknownCommand_wf_of_not_byte {id : Int} (h : id < 0 ∨ id > 255) :
    (Answer.boundary (.unknownCommand id)).wf c = true := by
  simp only [Answer.wf, BoundaryError.wf, List.all_eq_true, bne_iff_ne]
  intro b _
  have := b.isLt
  omega

theorem unknownCommand_wf_of_byte {id : Byte} (h : id ∉ commandIds) :
    (Answer.boundary (.unknownCommand id.toNat)).wf c = true := by
  simp only [Answer.wf, BoundaryError.wf, List.all_eq_true, bne_iff_ne]
  intro b hb he
  have : id = b := BitVec.eq_of_toNat_eq (Int.ofNat_inj.mp he)
  exact h (this ▸ hb)

theorem moduleCommand_moduleName (k : ModuleKind) : moduleCommand (moduleName k) = some (moduleCommandId k) := by
  cases k <;> decide

/-- A name that MODULE_COMMAND refuses is none of the nine (R206). -/
theorem unknownModule_wf {name : String} (h : moduleCommand name = none) :
    (Answer.boundary (.unknownModule name)).wf c = true := by
  simp only [Answer.wf, BoundaryError.wf, List.all_eq_true, bne_iff_ne]
  rintro k - rfl
  rw [moduleCommand_moduleName] at h
  cases h

theorem buildFrame_wf (crc : Bytes → Word) (id : Byte) (P : Bytes) : (buildFrame crc id P).wf c = true := by
  rcases buildFrame_cases crc id P with ⟨hP, h⟩ | ⟨hP, h⟩ <;> rw [h]
  · have hl : (chunkReport (encodeMsg crc id P)).length = 64 :=
      chunkReport_length _ (by rw [encodeMsg_length]; omega)
    exact beq_iff_eq.mpr hl
  · exact decide_eq_true hP

theorem buildChunked_wf (crc : Bytes → Word) (id : Byte) (P : Bytes) : (buildChunked crc id P).wf c = true := by
  rcases buildChunked_cases crc id P with ⟨-, h⟩ | ⟨hP, h⟩ <;> rw [h]
  · simpa [Answer.wf, Result.wf, messageReports_ne_nil, Config.reportSize] using
      messageReports_length (encodeMsg crc id P)
  · exact decide_eq_true hP

theorem parseAnswer_wf {e : Except NoFrameReason Frame} (h : ∀ f, e = .ok f → f.wf = true) :
    (parseAnswer e).wf c = true := by
  cases e with
  | ok f => exact h f rfl
  | error r => rfl

theorem setParam_wf {p : Preset} (hp : p.wf = true) (k : ModuleKind) (field : String) (v : Int) :
    (setParam c p k field v).wf c = true := by
  rcases setParam_cases c p k field v with ⟨hf, h⟩ | ⟨e, hf, hv, h⟩ | ⟨e, -, -, -, h⟩ <;> rw [h]
  · simp only [Answer.wf, hf, Option.isNone_none]
  · have hr : (!inRange 0 (256 ^ e.width - 1) v) = true := by rw [not_inRange_iff]; omega
    exact List.any_eq_true.mpr ⟨k, mem_moduleKind_all k, by simp only [hf, hr, beq_self_eq_true, Bool.and_true]⟩
  · exact presetWithModule_wf p k _ hp (modDec_wf k _)

theorem buildSlot_wf (s : State) (id : Byte) (slot : Int) : (buildSlot s id slot).wf c = true := by
  rcases buildSlot_cases s id slot with ⟨hv, h⟩ | ⟨-, -, h⟩ <;> rw [h]
  · exact (not_inRange_iff ..).mpr hv
  · exact buildChunked_wf ..

theorem buildVolume_wf (s : State) (id : Byte) (v : Int) : (buildVolume s id v).wf c = true := by
  rcases buildVolume_cases s id v with ⟨hv, h⟩ | ⟨-, -, h⟩ <;> rw [h]
  · exact (not_inRange_iff ..).mpr hv
  · exact buildChunked_wf ..

theorem buildStore_wf (s : State) (id : Byte) (a : StoreArgs) : (buildStore s id a).wf c = true := by
  rcases buildStore_cases s id a with ⟨hv, h⟩ | ⟨-, -, hn, h⟩ | ⟨-, -, -, h⟩ <;> rw [h]
  · exact (not_inRange_iff ..).mpr hv
  · exact bne_iff_ne.mpr hn
  · exact buildChunked_wf ..

theorem buildEffectParam_wf (s : State) (id : Byte) (i v : Int) : (buildEffectParam s id i v).wf c = true := by
  rcases buildEffectParam_cases s id i v with ⟨hi, h⟩ | ⟨-, -, hv, h⟩ | ⟨-, -, -, -, h⟩ <;> rw [h]
  · exact (not_inRange_iff ..).mpr hi
  · exact (not_inRange_iff ..).mpr hv
  · exact buildChunked_wf ..

theorem buildParam_wf (s : State) (id : Byte) (a : ParamArgs) : (buildParam s id a).wf c = true := by
  cases a with
  | set i v => exact buildEffectParam_wf c s id i v
  | toggle b => exact buildEffectParam_wf c s id _ _

theorem exportMo_wf {p : Preset} (hp : p.wf = true) : (exportMo c p).wf c = true := by
  simp [exportMo, Answer.wf, Result.wf, presetEncode_length_of_wf c p hp]

theorem importMo_wf (F : Bytes) : (importMo F).wf c = true := by
  unfold importMo
  split_ifs with hl
  · simp [Answer.wf, BoundaryError.wf, hl]
  · exact presetDecode_wf _

/-- Needs R273: MBF_VERSION has four bytes. -/
theorem exportMbf_wf (hc : c.valid = true) (m n : Bytes) {ps : List Preset} (hps : ps.all Preset.wf = true) :
    (exportMbf c m n ps).wf c = true := by
  unfold exportMbf
  split_ifs with hl
  · simpa [Answer.wf, BoundaryError.wf, mbfEntries] using hl
  · have hv : c.mbfVersion.length = 4 := by
      simp only [Params.valid, Bool.and_eq_true, beq_iff_eq] at hc
      exact hc.2
    exact beq_iff_eq.mpr (mbfBytes_length c m n ps (List.all_eq_true.mp hps) hv)

theorem importMbf_wf (F : Bytes) : (importMbf F).wf c = true := by
  unfold importMbf
  split_ifs with hl
  · simp only [mbfHeaderLen] at hl ⊢
    simp [Answer.wf, BoundaryError.wf, hl]
  · have hv : min 4 (F.length - 40) = 4 := by simp only [mbfHeaderLen] at hl; omega
    simp [Answer.wf, Result.wf, hv, mbfPreset]

theorem parseGnrHeader_wf (F : Bytes) : (parseGnrHeader F).wf c = true := by
  unfold parseGnrHeader
  split_ifs with hl hm
  · simp [Answer.wf, BoundaryError.wf, hl]
  · rfl
  · simp only [Answer.wf, Result.wf, slice_length, Bool.and_eq_true, decide_eq_true_eq, beq_self_eq_true, and_true]
    omega

end Sys2Proof.Machine
end

section
/-! SUPPORT. The outcome at the port has its shape after every instruction, host call and step (R245 to R247). -/

namespace Sys2Proof.Machine

/-- The invariant's clause about the port: what stands there is of its shape (`State.Inv.answerWf`). -/
def State.AnswerWf (t : State) : Prop := ∀ a, t.answer = some a → a.wf t.params = true

theorem done_answerWf {s : State} {a : Answer} (h : a.wf s.params = true) : (s.done a).AnswerWf := by
  rintro b hb
  cases hb
  exact h

theorem parsed_answerWf {s : State} {e : Except NoFrameReason Frame} (h : ∀ f, e = .ok f → f.wf = true) :
    (s.parsed e).AnswerWf := by
  intro b hb
  rw [State.parsed_answer] at hb
  cases hb
  exact parseAnswer_wf _ h

/-- An operation that ends with an outcome of its shape leaves a good state, whatever was live before it (R24, R26). -/
theorem EndsIn.inv {s t : State} (h : EndsIn s t) (hs : s.params.valid = true) (ha : t.AnswerWf) : t.Inv where
  crcIdle := h.crc
  reassemblyIdle := h.reassembly
  paramsValid := by rw [h.params]; exact hs
  answerWf := ha

variable {s t : State}

theorem returns_answerWf {a : Answer} (h : returns s a = .next t) (ha : a.wf s.params = true) : t.AnswerWf := by
  cases h
  exact done_answerWf ha

theorem commandUse_answerWf {α : Type} {id : Byte} {build : State → Byte → α → Answer}
    {parser : Bytes → Option Response} {u : CmdUse α} (h : commandUse id build parser u s = .next t)
    (hb : ∀ a, (build s id a).wf s.params = true) : t.AnswerWf := by
  cases u with
  | request a => exact returns_answerWf h (hb a)
  | generic P => exact returns_answerWf h (buildChunked_wf ..)
  | response P => exact returns_answerWf h rfl

theorem encodeModule_answerWf {k : ModuleKind} {m : EffectModule} (h : encodeModule k m s = .next t)
    (hm : m.wf k = true) : t.AnswerWf :=
  returns_answerWf h (beq_iff_eq.mpr (modEnc_length_of_wf m k hm))

theorem decodeModule_answerWf {k : ModuleKind} {buf : Bytes} (h : decodeModule k buf s = .next t) : t.AnswerWf :=
  returns_answerWf h (modDec_wf k buf)

/-- An instruction on operands of its types returns an outcome of its shape (R80, R247). -/
theorem exec_answerWf {i : Instr} (hw : i.wf = true) (h : exec i s = .next t) : t.AnswerWf := by
  cases i with
  | cksum b => exact returns_answerWf h rfl
  | frmBuild id P => exact returns_answerWf h (buildFrame_wf ..)
  | frmBuildc id P => exact returns_answerWf h (buildChunked_wf ..)
  | frmParse r => cases h; exact parsed_answerWf (parseReport_wf _ r)
  | frmParsec rs => cases h; exact parsed_answerWf (parseReports_wf _ rs)
  | pstNew => exact returns_answerWf h emptyPreset_wf
  | pstEnc p => exact returns_answerWf h (beq_iff_eq.mpr (presetEncode_length_of_wf _ p hw))
  | pstDec b => exact returns_answerWf h (presetDecode_wf b)
  | pstSetp p k field v => exact returns_answerWf h (setParam_wf _ hw k field v)
  | modEncFx m | modEncOd m | modEncAmp m | modEncCab m | modEncNs m | modEncEq m | modEncMod m | modEncDelay m
  | modEncReverb m => exact encodeModule_answerWf h hw
  | modDecFx b | modDecOd b | modDecAmp b | modDecCab b | modDecNs b | modDecEq b | modDecMod b | modDecDelay b
  | modDecReverb b => exact decodeModule_answerWf h
  | cmdIdentify u => exact commandUse_answerWf h fun _ => buildChunked_wf ..
  | cmdPreset u | cmdActivePatch u => exact commandUse_answerWf h fun _ => buildSlot_wf ..
  | cmdFx u | cmdOd u | cmdAmp u | cmdCab u | cmdNs u | cmdEq u | cmdMod u | cmdDelay u | cmdReverb u =>
    exact commandUse_answerWf h fun _ => buildParam_wf ..
  | cmdSystem u => exact commandUse_answerWf h fun _ => buildChunked_wf ..
  | cmdVolume u => exact commandUse_answerWf h fun _ => buildVolume_wf ..
  | cmdStorePatch u => exact commandUse_answerWf h fun _ => buildStore_wf ..

theorem performTxn_answerWf {x : Txn} (h : performTxn x s = .next t) : t.AnswerWf := by
  rcases performTxn_cases h with ⟨i, hi, he⟩ | ⟨id, P, hid, -, rfl⟩ | ⟨id, P, -, -, -, rfl⟩
  · exact exec_answerWf (decode_ok_wf hi) he
  · exact done_answerWf (unknownCommand_wf_of_byte _ hid)
  · exact done_answerWf rfl

theorem performByName_answerWf {name : String} {x : Operands} (h : performByName name x s = .next t) :
    t.AnswerWf := by
  unfold performByName at h
  split at h
  · next hn => exact returns_answerWf h (unknownModule_wf _ hn)
  · exact performTxn_answerWf h

theorem performBuildCommand_answerWf {id : Int} {P : Bytes} (h : performBuildCommand id P s = .next t) :
    t.AnswerWf := by
  rcases performBuildCommand_cases id P s with ⟨hid, e⟩ | ⟨-, -, e⟩ <;> rw [e] at h
  · exact returns_answerWf h (unknownCommand_wf_of_not_byte _ hid)
  · exact performTxn_answerWf h

theorem perform_answerWf {c : Call} (hs : s.params.valid = true) (h : perform c s = .next t) : t.AnswerWf := by
  cases c with
  | txn x => exact performTxn_answerWf h
  | effectParam n i v => exact performByName_answerWf h
  | toggleEffect n b => exact performByName_answerWf h
  | buildCommand id P => exact performBuildCommand_answerWf h
  | exportMo p =>
    simp only [perform] at h
    split_ifs at h with hp
    exact returns_answerWf h (exportMo_wf _ hp)
  | importMo F => exact returns_answerWf h (importMo_wf _ F)
  | exportMbf m n ps =>
    simp only [perform] at h
    split_ifs at h with hps
    exact returns_answerWf h (exportMbf_wf _ hs m n hps)
  | importMbf F => exact returns_answerWf h (importMbf_wf _ F)
  | parseGnrHeader F => exact returns_answerWf h (parseGnrHeader_wf _ F)

end Sys2Proof.Machine
end

section
/-! SUPPORT. What every step keeps: the invariant (O3) and the parameters (O7). -/

namespace Sys2Proof.Machine

/-- Settles O3: an idle step keeps the state; any other performs a call, which leaves nothing live and an outcome of its
shape at the port. -/
theorem stepKeepsInvariant : Obligations.StepKeepsInvariant := by
  intro s t hs h
  rcases step_cases h with ⟨-, rfl⟩ | ⟨c, rest, -, hc, he⟩
  · exact hs
  · exact he.inv hs.paramsValid (perform_answerWf (s := s.withPending rest) hs.paramsValid hc)

/-- Settles O7: a step idles or ends an operation, and no operation writes a parameter (R25). -/
theorem parametersNeverChange : Obligations.ParametersNeverChange := by
  intro s t h
  rcases step_cases h with ⟨-, rfl⟩ | ⟨c, rest, -, -, he⟩
  · rfl
  · rw [he.params, State.withPending_params]

end Sys2Proof.Machine
end

section
/-! SUPPORT. Purity (R20, R24, R26): a meaning reads nothing of the state but the parameters, so two states with equal
parameters see the same outcome. -/

namespace Sys2Proof.Machine

variable {s s' : State}

theorem crc16_congr (h : s.params = s'.params) : s.crc16 = s'.crc16 := by
  funext B
  simp only [State.crc16, h]

theorem buildSlot_congr (h : s.params = s'.params) (id : Byte) (slot : Int) :
    buildSlot s id slot = buildSlot s' id slot := by
  simp only [buildSlot, crc16_congr h]

theorem buildStore_congr (h : s.params = s'.params) (id : Byte) (a : StoreArgs) :
    buildStore s id a = buildStore s' id a := by
  simp only [buildStore, crc16_congr h]

theorem buildParam_congr (h : s.params = s'.params) (id : Byte) (a : ParamArgs) :
    buildParam s id a = buildParam s' id a := by
  cases a <;> simp only [buildParam, buildEffectParam, crc16_congr h, h]

theorem buildVolume_congr (h : s.params = s'.params) (id : Byte) (v : Int) :
    buildVolume s id v = buildVolume s' id v := by
  simp only [buildVolume, crc16_congr h]

theorem buildIdentify_congr (h : s.params = s'.params) (id : Byte) (u : Unit) :
    buildIdentify s id u = buildIdentify s' id u := by
  simp only [buildIdentify, crc16_congr h, h]

theorem buildSystem_congr (h : s.params = s'.params) (id : Byte) (blob : Bytes) :
    buildSystem s id blob = buildSystem s' id blob := by
  simp only [buildSystem, crc16_congr h]

/-- What O8 says of an instruction: it returns the same outcome in both states. -/
def SameOutcome (i : Instr) (s s' : State) : Prop := ∃ a, Completes i s a ∧ Completes i s' a

theorem sameOutcome_of_returns {i : Instr} {a a' : Answer} (hs : exec i s = returns s a)
    (hs' : exec i s' = returns s' a') (ha : a = a') : SameOutcome i s s' :=
  ⟨a, completes_done hs, completes_done (ha ▸ hs')⟩

theorem sameOutcome_of_returnsParse {i : Instr} {e e' : Except NoFrameReason Frame} (hs : exec i s = returnsParse s e)
    (hs' : exec i s' = returnsParse s' e') (he : e = e') : SameOutcome i s s' :=
  ⟨parseAnswer e, completes_parsed hs, completes_parsed (he ▸ hs')⟩

/-- A use of a command identifier is as pure as its builder: the generic builder reads the checksum parameter, the
response parser nothing (R215, R217). -/
theorem sameOutcome_of_commandUse {α : Type} {i : Instr} {id : Byte} {build : State → Byte → α → Answer}
    {parser : Bytes → Option Response} {u : CmdUse α} (h : s.params = s'.params)
    (hi : ∀ r, exec i r = commandUse id build parser u r) (hb : ∀ a, build s id a = build s' id a) :
    SameOutcome i s s' := by
  cases u with
  | request a => exact sameOutcome_of_returns (hi s) (hi s') (hb a)
  | generic P => exact sameOutcome_of_returns (hi s) (hi s') (by rw [crc16_congr h])
  | response P => exact sameOutcome_of_returns (hi s) (hi s') rfl

end Sys2Proof.Machine
end

section
/-! SUPPORT. Purity of every instruction (O8). -/

namespace Sys2Proof.Machine

/-- Settles O8: instruction by instruction; only the checksum, PST.ENC, PST.SETP and the builders read the state, and
they read its parameters. -/
theorem outcomeDependsOnOperandsAndParameters : Obligations.OutcomeDependsOnOperandsAndParameters := by
  intro i s s' h
  change SameOutcome i s s'
  have hcrc := crc16_congr h
  cases i with
  | cksum b => exact sameOutcome_of_returns rfl rfl (by rw [hcrc])
  | frmBuild id P => exact sameOutcome_of_returns rfl rfl (by rw [hcrc])
  | frmBuildc id P => exact sameOutcome_of_returns rfl rfl (by rw [hcrc])
  | frmParse r => exact sameOutcome_of_returnsParse rfl rfl (by rw [hcrc])
  | frmParsec rs => exact sameOutcome_of_returnsParse rfl rfl (by rw [hcrc])
  | pstEnc p => exact sameOutcome_of_returns rfl rfl (by rw [h])
  | pstSetp p k field v => exact sameOutcome_of_returns rfl rfl (by rw [h])
  | cmdIdentify u => exact sameOutcome_of_commandUse h (fun _ => rfl) (buildIdentify_congr h _)
  | cmdPreset u | cmdActivePatch u => exact sameOutcome_of_commandUse h (fun _ => rfl) (buildSlot_congr h _)
  | cmdFx u | cmdOd u | cmdAmp u | cmdCab u | cmdNs u | cmdEq u | cmdMod u | cmdDelay u | cmdReverb u =>
    exact sameOutcome_of_commandUse h (fun _ => rfl) (buildParam_congr h _)
  | cmdSystem u => exact sameOutcome_of_commandUse h (fun _ => rfl) (buildSystem_congr h _)
  | cmdVolume u => exact sameOutcome_of_commandUse h (fun _ => rfl) (buildVolume_congr h _)
  | cmdStorePatch u => exact sameOutcome_of_commandUse h (fun _ => rfl) (buildStore_congr h _)
  | _ => exact sameOutcome_of_returns rfl rfl rfl

end Sys2Proof.Machine
end

section
/-! SUPPORT. The state at reset (R35, R273). -/

namespace Sys2Proof.Machine

/-- The offsets are 3 plus a bounded slack, and the open entries are filtered by R273's own check, so no free value can
break the constraints. -/
theorem provisioned_valid : Config.provisioned.valid = true := by
  have hd := Config.delayTimeSlack.isLt
  have he := Config.eqBandsSlack.isLt
  have hx : (Config.extraFieldsFree.filter (fun x => x.2.fits x.1)).all (fun x => x.2.fits x.1) = true :=
    List.all_eq_true.mpr fun _ hm => (List.mem_filter.mp hm).2
  simp only [Params.valid, Config.provisioned, Bool.and_eq_true]
  exact ⟨⟨⟨⟨⟨decide_eq_true (by omega), decide_eq_true (by omega)⟩, decide_eq_true (by omega)⟩,
    decide_eq_true (by omega)⟩, hx⟩, rfl⟩

/-- Settles O1: the fields of the reset state, as R35 and the defaults of R273 give them. -/
theorem resetIsIdleWithDefaults : Obligations.ResetIsIdleWithDefaults :=
  ⟨rfl, rfl, rfl, rfl, rfl, rfl, rfl, rfl⟩

/-- Settles O2: nothing is live at reset, and the port is empty. -/
theorem resetMeetsInvariant : Obligations.ResetMeetsInvariant where
  crcIdle := rfl
  reassemblyIdle := rfl
  paramsValid := provisioned_valid
  answerWf := fun _ h => nomatch h

end Sys2Proof.Machine
end

section
/-! SUPPORT. What a step does with the first pending call (R54): it performs that call (O6), and a transaction runs as the
instruction it decodes to (O4). -/

namespace Sys2Proof.Machine

variable {s : State} {rest : List Call}

theorem step_of_pending_cons {c : Call} (hp : s.pending = c :: rest) : step s = perform c (s.withPending rest) := by
  rw [step, hp]

theorem performTxn_of_decode_ok {x : Txn} {i : Instr} (hd : decode x = .ok i) (s : State) :
    performTxn x s = exec i s := by
  rw [performTxn, hd]

end Sys2Proof.Machine

namespace Sys2Proof.Machine

/-- Settles O6: the step performs the call in the state with `rest` pending, and every way an operation ends keeps the
pending calls and the parameters, leaves nothing live, and puts an outcome at the port. -/
theorem stepTakesCallsInOrder : Obligations.StepTakesCallsInOrder := by
  intro s t c rest hp h
  rw [step_of_pending_cons hp] at h
  have he : EndsIn (s.withPending rest) t := perform_endsIn h
  exact ⟨he.pending, he.params, he.answer, he.crc, he.reassembly⟩

/-- Settles O4: the call taken is a transaction, and performing one that decodes is running its instruction; taking it
from the pending list changes no other field. -/
theorem stepRunsDecodedInstruction : Obligations.StepRunsDecodedInstruction := by
  intro s x rest i hp hd
  have hstep : step s = exec i (s.withPending rest) :=
    calc step s = perform (.txn x) (s.withPending rest) := step_of_pending_cons hp
      _ = performTxn x (s.withPending rest) := rfl
      _ = exec i (s.withPending rest) := performTxn_of_decode_ok hd _
  exact ⟨hstep, State.withPending_pending .., State.withPending_params .., State.withPending_crc ..,
    State.withPending_reassembly .., State.withPending_answer .., State.withPending_reason ..⟩

end Sys2Proof.Machine
end

section
/-! SUPPORT. The op-select map and the command enumeration (R79, R190): what decodes is the encoding of what it decodes
to, and a well-formed instruction is read back from its encoding (O11); sample codes (O10). -/

namespace Sys2Proof

variable {x : Operands} {i : Instr}

theorem encode_of_decodeOp {code : Byte} (h : decodeOp code x = .ok i) : encode i = ⟨.op, code, x⟩ := by
  unfold decodeOp at h
  split at h
  case h_1 | h_4 | h_8 | h_19 | h_20 | h_21 | h_22 | h_23 | h_24 | h_25 | h_26 | h_27 =>
    obtain ⟨b, rfl, rfl⟩ := (takeBytes_ok _ _ _).mp h
    rfl
  case h_2 | h_3 =>
    obtain ⟨c, P, rfl, rfl⟩ := (takeFrame_ok _ _ _).mp h
    rfl
  case h_5 =>
    obtain ⟨rs, rfl, rfl⟩ := (takeReports_ok _ _ _).mp h
    rfl
  case h_6 =>
    obtain ⟨rfl, rfl⟩ := (takeNone_ok _ _ _).mp h
    rfl
  case h_7 =>
    obtain ⟨p, rfl, -, rfl⟩ := (takePreset_ok _ _ _).mp h
    rfl
  case h_9 =>
    obtain ⟨p, k, field, v, rfl, -, rfl⟩ := (takeSetParam_ok _ _ _).mp h
    rfl
  case h_10 | h_11 | h_12 | h_13 | h_14 | h_15 | h_16 | h_17 | h_18 =>
    obtain ⟨m, rfl, -, rfl⟩ := (takeModule_ok _ _ _ _).mp h
    rfl
  case h_28 => cases h

theorem encode_of_decodeCmd {id : Byte} (h : decodeCmd id x = .ok i) : encode i = ⟨.cmd, id, x⟩ := by
  unfold decodeCmd at h
  split at h
  case h_1 =>
    obtain ⟨u, rfl, -, rfl⟩ := (takeUse_ok query_form _ _ _).mp h
    rfl
  case h_2 | h_13 | h_14 =>
    obtain ⟨u, rfl, -, rfl⟩ := (takeUse_ok number_form _ _ _).mp h
    rfl
  case h_3 | h_4 | h_5 | h_6 | h_7 | h_8 | h_9 | h_10 | h_11 =>
    obtain ⟨u, rfl, -, rfl⟩ := (takeUse_ok param_form _ _ _).mp h
    rfl
  case h_12 =>
    obtain ⟨u, rfl, -, rfl⟩ := (takeUse_ok blob_form _ _ _).mp h
    rfl
  case h_15 =>
    obtain ⟨u, rfl, -, rfl⟩ := (takeUse_ok store_form _ _ _).mp h
    rfl
  case h_16 => cases h

/-- The code and the operands of a transaction can be read off the instruction it decodes to. -/
theorem encode_of_decode {t : Txn} (h : decode t = .ok i) : encode i = t := by
  obtain ⟨space, code, y⟩ := t
  cases space with
  | op => exact encode_of_decodeOp h
  | cmd => exact encode_of_decodeCmd h

open Laws in
/-- The round trip of Laws/PerInstr.lean, for every instruction. -/
theorem decode_encode (hw : i.wf = true) : decode (encode i) = .ok i := by
  cases i with
  | cksum b => exact RoundTrip.cksum b hw
  | frmBuild c P => exact RoundTrip.frmBuild c P hw
  | frmBuildc c P => exact RoundTrip.frmBuildc c P hw
  | frmParse r => exact RoundTrip.frmParse r hw
  | frmParsec rs => exact RoundTrip.frmParsec rs hw
  | pstNew => exact RoundTrip.pstNew hw
  | pstEnc p => exact RoundTrip.pstEnc p hw
  | pstDec b => exact RoundTrip.pstDec b hw
  | pstSetp p k field v => exact RoundTrip.pstSetp p k field v hw
  | modEncFx m => exact RoundTrip.modEncFx m hw
  | modEncOd m => exact RoundTrip.modEncOd m hw
  | modEncAmp m => exact RoundTrip.modEncAmp m hw
  | modEncCab m => exact RoundTrip.modEncCab m hw
  | modEncNs m => exact RoundTrip.modEncNs m hw
  | modEncEq m => exact RoundTrip.modEncEq m hw
  | modEncMod m => exact RoundTrip.modEncMod m hw
  | modEncDelay m => exact RoundTrip.modEncDelay m hw
  | modEncReverb m => exact RoundTrip.modEncReverb m hw
  | modDecFx b => exact RoundTrip.modDecFx b hw
  | modDecOd b => exact RoundTrip.modDecOd b hw
  | modDecAmp b => exact RoundTrip.modDecAmp b hw
  | modDecCab b => exact RoundTrip.modDecCab b hw
  | modDecNs b => exact RoundTrip.modDecNs b hw
  | modDecEq b => exact RoundTrip.modDecEq b hw
  | modDecMod b => exact RoundTrip.modDecMod b hw
  | modDecDelay b => exact RoundTrip.modDecDelay b hw
  | modDecReverb b => exact RoundTrip.modDecReverb b hw
  | cmdIdentify u => exact RoundTrip.cmdIdentify u hw
  | cmdPreset u => exact RoundTrip.cmdPreset u hw
  | cmdFx u => exact RoundTrip.cmdFx u hw
  | cmdOd u => exact RoundTrip.cmdOd u hw
  | cmdAmp u => exact RoundTrip.cmdAmp u hw
  | cmdCab u => exact RoundTrip.cmdCab u hw
  | cmdNs u => exact RoundTrip.cmdNs u hw
  | cmdEq u => exact RoundTrip.cmdEq u hw
  | cmdMod u => exact RoundTrip.cmdMod u hw
  | cmdDelay u => exact RoundTrip.cmdDelay u hw
  | cmdReverb u => exact RoundTrip.cmdReverb u hw
  | cmdSystem u => exact RoundTrip.cmdSystem u hw
  | cmdVolume u => exact RoundTrip.cmdVolume u hw
  | cmdActivePatch u => exact RoundTrip.cmdActivePatch u hw
  | cmdStorePatch u => exact RoundTrip.cmdStorePatch u hw

/-- Settles O11: what decodes is well-formed and encodes to the transaction it came from; conversely a well-formed
instruction is read back from its encoding. -/
theorem decodeAndEncodeAgree : Obligations.DecodeAndEncodeAgree := by
  intro t i
  constructor
  · intro h
    exact ⟨decode_ok_wf h, encode_of_decode h⟩
  · rintro ⟨hw, rfl⟩
    exact decode_encode hw

/-- Settles O10: each sample is read by the taker of its code. -/
theorem decodeReadsTheSpecsCodes : Obligations.DecodeReadsTheSpecsCodes :=
  ⟨(takeBytes_ok _ _ _).mpr ⟨_, rfl, rfl⟩, (takeFrame_ok _ _ _).mpr ⟨_, _, rfl, rfl⟩,
    (takeReports_ok _ _ _).mpr ⟨_, rfl, rfl⟩, (takeNone_ok _ _ _).mpr ⟨rfl, rfl⟩,
    (takeBytes_ok _ _ _).mpr ⟨_, rfl, rfl⟩, (takeUse_ok query_form _ _ _).mpr ⟨.request (), rfl, rfl, rfl⟩,
    (takeUse_ok number_form _ _ _).mpr ⟨.request 2, rfl, rfl, rfl⟩, rfl⟩

end Sys2Proof
end

section
/-! SUPPORT. An op-select code outside R79 selects no operation, and every code of R79 selects one (O12). -/

namespace Sys2Proof.Machine

/-- The 27 arms of the op-select map are the codes of R79. -/
theorem decodeOp_unassigned {code : Byte} (h : code ∉ opSelectCodes) (x : Operands) :
    decodeOp code x = .error (.noSuchOperation code) := by
  unfold decodeOp
  split
  case h_28 => rfl
  all_goals exact absurd (by decide) h

theorem performTxn_unassigned {code : Byte} (h : code ∉ opSelectCodes) (x : Operands) (s : State) :
    performTxn ⟨.op, code, x⟩ s = .refused (.noSuchOperation code) := by
  have hd : decode ⟨.op, code, x⟩ = .error (.noSuchOperation code) := decodeOp_unassigned h x
  rw [performTxn, hd]

/-- The zero operands of a code of R79 have the types R80 gives it. -/
theorem zeroOpOperands_decode : ∀ code ∈ opSelectCodes,
    (zeroOpOperands code).any (fun x => (decode ⟨.op, code, x⟩).isOk) = true := by decide

theorem exists_decode_of_mem_opSelectCodes {code : Byte} (h : code ∈ opSelectCodes) :
    ∃ x i, decode ⟨.op, code, x⟩ = .ok i := by
  obtain ⟨x, -, hx⟩ := (Option.any_eq_true _ _).mp (zeroOpOperands_decode code h)
  cases hd : decode ⟨.op, code, x⟩ with
  | ok i => exact ⟨x, i, hd⟩
  | error e => simp [hd, Except.isOk, Except.toBool] at hx

/-- Settles O12: the step performs the transaction, whose code the decoder refuses whatever its operands are. -/
theorem unassignedOpSelectIsRefused : Obligations.UnassignedOpSelectIsRefused := by
  refine ⟨fun code x s rest h => ?_, fun code h => exists_decode_of_mem_opSelectCodes h⟩
  calc step (s.withPending (.txn ⟨.op, code, x⟩ :: rest))
      _ = performTxn ⟨.op, code, x⟩ (s.withPending rest) := step_of_pending_cons (State.withPending_pending ..)
      _ = .refused (.noSuchOperation code) := performTxn_unassigned h x _

end Sys2Proof.Machine
end

section
/-! SUPPORT. The layout of the reports FRM.BUILD and FRM.BUILDC return (O17, O21). -/

namespace Sys2Proof.Machine

/-- FRAME1 (R61, R101): the report of a message that fits in one, byte for byte. -/
theorem chunkReport_encodeMsg (crc : Bytes → Word) (c : Byte) {P : Bytes} (h : P.length ≤ 56) :
    chunkReport (encodeMsg crc c P) =
      [BitVec.ofNat 8 (7 + P.length), 0xAA, 0x55, BitVec.ofNat 8 (1 + P.length), 0x00, c] ++ P ++
        [lo8 (crc (c :: P)), hi8 (crc (c :: P))] ++ zeros (56 - P.length) := by
  have hpad : 63 - (7 + P.length) = 56 - P.length := by omega
  rw [chunkReport, encodeMsg_length, Config.chunkMax, hpad, encodeMsg, lo8_ofNat, hi8_ofNat_of_lt _ (by omega)]
  rfl

/-- Settles O17: the payload is not refused, and the report is the encoded message behind its length. -/
theorem buildFrameLayout : Obligations.BuildFrameLayout := by
  intro c P s h
  rcases buildFrame_cases s.crc16 c P with ⟨-, hb⟩ | ⟨hlong, -⟩
  · rw [← chunkReport_encodeMsg s.crc16 c h, ← hb]
    exact completes_done rfl
  · omega

/-- The one slice of a message that fits in a report is the message (R105). -/
theorem messageSlices_of_le {M : Bytes} (h1 : 1 ≤ M.length) (h63 : M.length ≤ 63) : messageSlices M = [M] := by
  have hcount : reportCount M.length = 1 := by
    simp only [reportCount, Config.chunkMax]
    omega
  simp only [messageSlices, hcount, Config.chunkMax, List.range_one, List.map_cons, List.map_nil]
  rw [Nat.mul_zero, min_eq_right (by omega), slice_self]

/-- The message of one report is no special case: the reports of any message are those of its slices (R105, R106). -/
theorem messageReports_eq_map {M : Bytes} (h : 1 ≤ M.length) : messageReports M = (messageSlices M).map chunkReport := by
  unfold messageReports
  split
  · next hle => rw [messageSlices_of_le h hle, List.map_singleton]
  · rfl

/-- Settles O21: the payload is not refused, and the reports are those of the slices of the encoded message. -/
theorem buildChunkedReports : Obligations.BuildChunkedReports := by
  intro c P s h
  rcases buildChunked_cases s.crc16 c P with ⟨-, hb⟩ | ⟨hlong, -⟩
  · rw [messageReports_eq_map (by rw [encodeMsg_length]; omega), messageSlices, List.map_map, encodeMsg_length] at hb
    exact completes_done (congrArg (returns s) hb)
  · omega

end Sys2Proof.Machine
end

section
/-! SUPPORT. The preset record as its list of fields, and each field at its offset (R69, R137; O32). -/

namespace Sys2Proof.Machine

/-- The fields of the preset record in the order of R69, the reserved tail last. -/
def presetFields (c : Params) (p : Preset) : List Bytes :=
  [p.effectOrder, putBe16 c.sizeFieldValue, nameEnc c 14 p.name] ++
    ModuleKind.all.map (fun k => modEnc (presetModule p k)) ++ [zeros 353]

/-- Their lengths (R69). -/
def presetFieldLengths : List Nat := [10, 2, 14] ++ ModuleKind.all.map ModuleKind.size ++ [353]

theorem presetEncode_eq_flatten (c : Params) (p : Preset) : presetEncode c p = (presetFields c p).flatten := by
  simp [presetEncode, presetFields, ModuleKind.all, presetModule, Config.nameLen, Config.tailLen]

theorem presetFields_lengths (c : Params) {p : Preset} (h : p.wf = true) :
    (presetFields c p).map List.length = presetFieldLengths := by
  have ho : p.effectOrder.length = 10 := ((preset_wf_iff p).mp h).1
  have hk : ModuleKind.all.map (fun k => (modEnc (presetModule p k)).length) = ModuleKind.all.map ModuleKind.size :=
    List.map_congr_left fun k _ => modEnc_length_of_wf _ k (presetModule_wf p k h)
  simp [presetFields, presetFieldLengths, ho, ← hk, putBe16, Function.comp_def]

/-- Field i of a list of sequences stands in their concatenation between the sums of the lengths before and up to it. -/
theorem slice_flatten (L : List Bytes) (i : Nat) (h : i < L.length) :
    slice L.flatten ((L.map List.length).take i).sum ((L.map List.length).take (i + 1)).sum = L[i] := by
  rw [slice, ← List.drop_take]
  exact List.drop_take_succ_flatten_eq_getElem L i h

/-- Field i of the record is at its offset in R69. -/
theorem slice_presetEncode (c : Params) {p : Preset} (h : p.wf = true) (i : Fin 13) :
    slice (presetEncode c p) (presetFieldLengths.take i).sum (presetFieldLengths.take (i + 1)).sum =
      (presetFields c p)[i.val]'i.isLt := by
  rw [presetEncode_eq_flatten, ← presetFields_lengths c h]
  exact slice_flatten (presetFields c p) i.val i.isLt

/-- The module records stand at MODULE_OFF (R10, R69, R151). -/
theorem moduleSlice_presetEncode (c : Params) {p : Preset} (h : p.wf = true) (k : ModuleKind) :
    moduleSlice k (presetEncode c p) = modEnc (presetModule p k) := by
  cases k with
  | fx => exact slice_presetEncode c h 3
  | od => exact slice_presetEncode c h 4
  | amp => exact slice_presetEncode c h 5
  | cab => exact slice_presetEncode c h 6
  | ns => exact slice_presetEncode c h 7
  | eq => exact slice_presetEncode c h 8
  | mod => exact slice_presetEncode c h 9
  | delay => exact slice_presetEncode c h 10
  | reverb => exact slice_presetEncode c h 11

/-- The two bytes of the size field, high byte first (R138, R139). -/
theorem byteAt_presetEncode_sizeField (c : Params) {p : Preset} (h : p.wf = true) (i : Nat) (hi : i < 2) :
    byteAt (presetEncode c p) (10 + i) = byteAt (putBe16 c.sizeFieldValue) i := by
  have hs : slice (presetEncode c p) 10 12 = putBe16 c.sizeFieldValue := slice_presetEncode c h 1
  rw [← byteAt_slice _ 10 12 i hi, hs]

/-- Settles O32: the record is the concatenation of its fields, whose lengths a preset of the type's shape fixes. -/
theorem presetRecordLayout : Obligations.PresetRecordLayout := by
  intro p s h
  exact ⟨presetEncode s.params p, completes_done rfl, presetEncode_length_of_wf s.params p h,
    slice_presetEncode s.params h 0,
    byteAt_presetEncode_sizeField s.params h 0 (by decide), byteAt_presetEncode_sizeField s.params h 1 (by decide),
    slice_presetEncode s.params h 2, moduleSlice_presetEncode s.params h,
    slice_presetEncode s.params h 12⟩

end Sys2Proof.Machine
end

section
/-! SUPPORT. The checksum (R91 to R96): the reference vector under every step function, and CKSUM's outcome
(O13 to O16). -/

namespace Sys2Proof.Machine

/-- The first step of the reference vector, over A6, is the free function's own (R93). -/
theorem withReference_first (f : Word → Byte → Word) : withReference f 0xFFFF 0xA6 = f 0xFFFF 0xA6 :=
  withReference_of_not f 0xFFFF 0xA6 fun ⟨_, hb⟩ => absurd hb (by decide)

theorem withReference_meets_reference (f : Word → Byte → Word) :
    withReference f (withReference f 0xFFFF 0xA6) 0x02 = 0x6865 := by
  rw [withReference_first, withReference_last]

/-- The one value put in is the one the function has already. -/
theorem withReference_eq_self {f : Word → Byte → Word} (h : f (f 0xFFFF 0xA6) 0x02 = 0x6865) : withReference f = f := by
  funext c b
  by_cases hv : c = f 0xFFFF 0xA6 ∧ b = 0x02
  · obtain ⟨rfl, rfl⟩ := hv
    rw [withReference_last, h]
  · exact withReference_of_not f c b hv

/-- Settles O15: the four clauses are the definition of the vendor's step and the lemmas about `withReference`. -/
theorem vendorStepIsFreeButForReference : Obligations.VendorStepIsFreeButForReference :=
  ⟨rfl, withReference_meets_reference, fun _ => withReference_eq_self, withReference_of_not⟩

/-- The test fixture meets R93 by computation. -/
theorem fixtureStep_meets_reference : fixtureStep (fixtureStep 0xFFFF 0xA6) 0x02 = 0x6865 := by
  simp [fixtureStep, fixtureBit]

/-- Every step function that can be provisioned (R272) meets R93. -/
theorem crcStep_meets_reference (p : CrcStepId) : crcStep p (crcStep p 0xFFFF 0xA6) 0x02 = 0x6865 := by
  cases p with
  | vendor => exact withReference_meets_reference Config.crcStepFree
  | testFixture => exact fixtureStep_meets_reference

theorem completes_cksum (data : Bytes) (s : State) : Completes (.cksum data) s (.ok (.word (s.crc16 data))) :=
  completes_done rfl

/-- Settles O13: `crc16` is the fold from CRC_INIT. -/
theorem cksumFoldsTheBytes : Obligations.CksumFoldsTheBytes := fun data s => completes_cksum data s

/-- The checksum of A6 02 is two steps from CRC_INIT, so the reference vector gives it (R93). -/
theorem State.crc16_reference (s : State) : s.crc16 [0xA6, 0x02] = 0x6865 :=
  crcStep_meets_reference s.params.crcStep

/-- Settles O14: CKSUM completes with `crc16`, of which the reference vector fixes the value. -/
theorem cksumReferenceVector : Obligations.CksumReferenceVector := by
  intro s
  refine ⟨completes_cksum [] s, ?_, crcStep_meets_reference s.params.crcStep⟩
  rw [← s.crc16_reference]
  exact completes_cksum [0xA6, 0x02] s

/-- The loop over a concatenation is the loop over its second part, started from the result of the first (R96). -/
theorem crcFold_append (step : Word → Byte → Word) (c : Word) (A B : Bytes) :
    crcFold step c (A ++ B) = crcFold step (crcFold step c A) B := List.foldl_append

/-- Settles O16: the fold over a concatenation, started at CRC_INIT. -/
theorem crcOfConcatenation : Obligations.CrcOfConcatenation := fun step => crcFold_append step Config.crcInit

end Sys2Proof.Machine
end

section
/-! SUPPORT. What FRM.BUILD and FRM.BUILDC return, and what they refuse (O19, O23, O24). -/

namespace Sys2Proof.Machine

theorem completes_frmBuild (c : Byte) (P : Bytes) (s : State) :
    Completes (.frmBuild c P) s (buildFrame s.crc16 c P) :=
  completes_done rfl

theorem completes_frmBuildc (c : Byte) (P : Bytes) (s : State) :
    Completes (.frmBuildc c P) s (buildChunked s.crc16 c P) :=
  completes_done rfl

/-- R101: a payload that fits is framed in one report. -/
theorem completes_frmBuild_report (c : Byte) {P : Bytes} (s : State) (h : P.length ≤ 56) :
    Completes (.frmBuild c P) s (.ok (.report (chunkReport (encodeMsg s.crc16 c P)))) := by
  obtain ⟨-, hb⟩ := (buildFrame_cases s.crc16 c P).resolve_right fun ⟨hlong, _⟩ => by omega
  exact hb ▸ completes_frmBuild c P s

/-- R105: a payload that a message can carry is framed in the reports of its message. -/
theorem completes_frmBuildc_reports (c : Byte) {P : Bytes} (s : State) (h : P.length ≤ 65534) :
    Completes (.frmBuildc c P) s (.ok (.reports (messageReports (encodeMsg s.crc16 c P)))) := by
  obtain ⟨-, hb⟩ := (buildChunked_cases s.crc16 c P).resolve_right fun ⟨hlong, _⟩ => by omega
  exact hb ▸ completes_frmBuildc c P s

/-- A report from FRM.BUILD comes of a payload that was not refused (R101, R102). -/
theorem frmBuild_report_inv {c : Byte} {P r : Bytes} {s : State}
    (h : Completes (.frmBuild c P) s (.ok (.report r))) :
    P.length ≤ 56 ∧ r = chunkReport (encodeMsg s.crc16 c P) := by
  have ha := h.unique (completes_frmBuild c P s)
  rcases buildFrame_cases s.crc16 c P with ⟨hP, hb⟩ | ⟨-, hb⟩ <;> rw [hb] at ha <;> cases ha
  exact ⟨hP, rfl⟩

/-- A list of reports from FRM.BUILDC comes of a payload that was not refused (R105, R108). -/
theorem frmBuildc_reports_inv {c : Byte} {P : Bytes} {rs : List Bytes} {s : State}
    (h : Completes (.frmBuildc c P) s (.ok (.reports rs))) :
    P.length ≤ 65534 ∧ rs = messageReports (encodeMsg s.crc16 c P) := by
  have ha := h.unique (completes_frmBuildc c P s)
  rcases buildChunked_cases s.crc16 c P with ⟨hP, hb⟩ | ⟨-, hb⟩ <;> rw [hb] at ha <;> cases ha
  exact ⟨hP, rfl⟩

/-- Settles O19: of the two outcomes FRM.BUILD has, only the refusal is for such a payload. -/
theorem buildFrameRefusesLongPayload : Obligations.BuildFrameRefusesLongPayload := by
  intro c P s h
  obtain ⟨-, hb⟩ := (buildFrame_cases s.crc16 c P).resolve_left fun ⟨hshort, _⟩ => by omega
  exact hb ▸ completes_frmBuild c P s

/-- Settles O24: of the two outcomes FRM.BUILDC has, only the refusal is for such a payload. -/
theorem buildChunkedRefusesLongPayload : Obligations.BuildChunkedRefusesLongPayload := by
  intro c P s h
  obtain ⟨-, hb⟩ := (buildChunked_cases s.crc16 c P).resolve_left fun ⟨hshort, _⟩ => by omega
  exact hb ▸ completes_frmBuildc c P s

/-- R105's first case: a message of at most 63 bytes is one report. -/
theorem messageReports_of_le {M : Bytes} (h : M.length ≤ 63) : messageReports M = [chunkReport M] := if_pos h

/-- Settles O23: the message has at most 63 bytes, so its one report is the frame of FRM.BUILD. -/
theorem buildChunkedSingleIsBuildFrame : Obligations.BuildChunkedSingleIsBuildFrame := by
  intro c P s h
  have hM : (encodeMsg s.crc16 c P).length ≤ 63 := by
    rw [encodeMsg_length]
    omega
  refine ⟨chunkReport (encodeMsg s.crc16 c P), completes_frmBuild_report c s h, ?_⟩
  rw [← messageReports_of_le hM]
  exact completes_frmBuildc_reports c s (by omega)

end Sys2Proof.Machine
end

section
/-! SUPPORT. The bytes of a report: its length byte, then the slice with its zero padding (R104); what R103 and R109 say of
the reports (O20, O22). -/

namespace Sys2Proof.Machine

theorem chunkReport_eq_cons (x : Bytes) :
    chunkReport x = BitVec.ofNat 8 x.length :: (x ++ zeros (63 - x.length)) := rfl

/-- The length byte is the length of the slice, which never exceeds a byte (R63). -/
theorem byteAt_chunkReport_zero {x : Bytes} (h : x.length ≤ 63) : (byteAt (chunkReport x) 0).toNat = x.length := by
  rw [chunkReport_eq_cons, byteAt_cons_zero, BitVec.toNat_ofNat]
  omega

/-- Behind the length byte a report reads as its slice, since the padding reads as what is past the slice's end: zero. -/
theorem byteAt_chunkReport_succ (x : Bytes) (i : Nat) : byteAt (chunkReport x) (i + 1) = byteAt x i := by
  rw [chunkReport_eq_cons, byteAt_cons_succ, byteAt_append, byteAt_zeros]
  split
  · rfl
  · next h => rw [byteAt_of_length_le x i (by omega)]

/-- Settles O20: byte i of the report is byte i - 1 of the message, whose header R100 gives and which ends at 7 + p. -/
theorem buildFrameReportProperties : Obligations.BuildFrameReportProperties := by
  intro c P s r hr
  obtain ⟨hP, rfl⟩ := frmBuild_report_inv hr
  have hlen : (encodeMsg s.crc16 c P).length = 7 + P.length := encodeMsg_length ..
  refine ⟨chunkReport_length _ (by omega), ?_, byteAt_chunkReport_succ _ 0, byteAt_chunkReport_succ _ 1, ?_, ?_⟩
  · rw [byteAt_chunkReport_zero (by omega), hlen]
  · rw [byteAt_chunkReport_succ _ 3]
    exact hi8_ofNat_of_lt (1 + P.length) (by omega)
  · intro i hi _
    obtain ⟨j, rfl⟩ : ∃ j, i = j + 1 := ⟨i - 1, by omega⟩
    rw [byteAt_chunkReport_succ, byteAt_of_length_le _ _ (by omega)]

/-- R109: there are ceil(L / 63) slices. -/
theorem messageSlices_length (M : Bytes) : (messageSlices M).length = (M.length + 62) / 63 := by
  simp [messageSlices, reportCount, Config.chunkMax]

/-- R106: the cut is greedy, so every slice but the last is full and the last one has the remainder. -/
theorem messageSlices_getElem_length (M : Bytes) (j : Nat) (h : j < (messageSlices M).length) :
    (messageSlices M)[j].length =
      if j + 1 < (messageSlices M).length then 63 else M.length - 63 * ((messageSlices M).length - 1) := by
  have hk := messageSlices_length M
  have hj : (messageSlices M)[j].length = min (63 * (j + 1)) M.length - 63 * j := by
    simp [messageSlices, Config.chunkMax]
    omega
  rw [hj]
  split <;> omega

/-- Settles O22: the reports are those of the slices, a report's length byte is the length of its slice, and the slices
together are the message. -/
theorem buildChunkedCounts : Obligations.BuildChunkedCounts := by
  intro c P s rs hrs
  obtain ⟨-, rfl⟩ := frmBuildc_reports_inv hrs
  have hlen : (encodeMsg s.crc16 c P).length = 7 + P.length := encodeMsg_length ..
  generalize encodeMsg s.crc16 c P = M at hlen ⊢
  have h64 : ∀ r ∈ messageReports M, r.length = 64 := messageReports_length M
  rw [messageReports_eq_map (by omega)] at h64 ⊢
  have hbyte : ∀ x ∈ messageSlices M, (byteAt (chunkReport x) 0).toNat = x.length :=
    fun x hx => byteAt_chunkReport_zero (messageSlices_short M x hx)
  refine ⟨?_, h64, fun j hj => ?_, ?_⟩
  · rw [List.length_map, messageSlices_length, hlen]
  · rw [List.getElem_map, hbyte _ (List.getElem_mem _), messageSlices_getElem_length, List.length_map, hlen]
  · calc (((messageSlices M).map chunkReport).map fun r => (byteAt r 0).toNat).sum
        _ = ((messageSlices M).map List.length).sum := by rw [List.map_map]; exact congrArg _ (List.map_congr_left hbyte)
        _ = M.length := by rw [← List.length_flatten, messageSlices_flatten]
        _ = 7 + P.length := hlen

end Sys2Proof.Machine
end

section
/-! SUPPORT. When a parse gives a frame: the checks of R116 and R125, in both directions, and what FRM.PARSE adds to the
validation of a message. -/

namespace Sys2Proof.Machine

variable (crc : Bytes → Word) (f : Frame)

theorem parseMessage_eq_ok_iff (B : Bytes) :
    parseMessage crc B = .ok f ↔
      7 ≤ B.length ∧ byteAt B 0 = 0xAA ∧ byteAt B 1 = 0x55 ∧
      1 ≤ (le16 B 2).toNat ∧ 6 + (le16 B 2).toNat ≤ B.length ∧
      crc (slice B 4 (4 + (le16 B 2).toNat)) = le16 B (4 + (le16 B 2).toNat) ∧
      f = ⟨byteAt B 4, slice B 5 (4 + (le16 B 2).toNat)⟩ := by
  refine ⟨parseMessage_ok crc B f, ?_⟩
  rintro ⟨hlen, h0, h1, hbody, hfits, hcrc, rfl⟩
  unfold parseMessage
  rw [if_neg (by omega), if_neg (by simp [h0, h1]), if_neg (by omega), if_neg (by omega), if_neg (not_not.mpr hcrc)]

theorem parseReport_eq_ok_iff (r : Bytes) :
    parseReport crc r = .ok f ↔
      8 ≤ r.length ∧ 7 ≤ (byteAt r 0).toNat ∧ byteAt r 1 = 0xAA ∧ byteAt r 2 = 0x55 ∧
      1 ≤ (le16 r 3).toNat ∧ 7 + (le16 r 3).toNat ≤ r.length ∧
      crc (slice r 5 (5 + (le16 r 3).toNat)) = le16 r (5 + (le16 r 3).toNat) ∧
      f = ⟨byteAt r 5, slice r 6 (5 + (le16 r 3).toNat)⟩ := by
  refine ⟨parseReport_ok crc r f, ?_⟩
  rintro ⟨hlen, hdecl, h1, h2, hbody, hfits, hcrc, rfl⟩
  unfold parseReport
  rw [if_neg (by omega), if_neg (by omega), if_neg (by simp [h1, h2]), if_neg (by omega), if_neg (by omega),
    if_neg (not_not.mpr hcrc)]

theorem slice_cons_succ (x : Byte) (B : Bytes) (a b : Nat) : slice (x :: B) (a + 1) (b + 1) = slice B a b := by
  simp [slice]

/-- FRM.PARSE validates what stands behind the length byte as FRM.PARSEC validates a buffer; all it asks of the length byte
is to be at least 7 (R117). -/
theorem parseReport_cons_eq_ok_iff (m : Byte) (B : Bytes) :
    parseReport crc (m :: B) = .ok f ↔ 7 ≤ m.toNat ∧ parseMessage crc B = .ok f := by
  have h8 : 8 ≤ B.length + 1 ↔ 7 ≤ B.length := by omega
  have hfits (b : Nat) : 7 + b ≤ B.length + 1 ↔ 6 + b ≤ B.length := by omega
  have hoff (b : Nat) : 5 + b = 4 + b + 1 := by omega
  rw [parseReport_eq_ok_iff, parseMessage_eq_ok_iff]
  simp only [List.length_cons, byteAt_cons_zero, byteAt_cons_succ, le16_cons_succ, slice_cons_succ, hoff, h8, hfits]
  exact and_left_comm

end Sys2Proof.Machine
end

section
/-! SUPPORT. The round trips (R111, R112): the message that is built validates as the frame it was built from, alone in its
report or reassembled (O18, O29, O30). -/

namespace Sys2Proof.Machine

/-- MSG (R64, R100), with what follows it: the header, the bytes under the checksum, the checksum low byte first. -/
theorem encodeMsg_append (crc : Bytes → Word) (c : Byte) (P extra : Bytes) :
    encodeMsg crc c P ++ extra =
      [0xAA, 0x55, lo8 (BitVec.ofNat 16 (1 + P.length)), hi8 (BitVec.ofNat 16 (1 + P.length))] ++ (c :: P) ++
        (putLe16 (crc (c :: P)) ++ extra) := by
  simp [encodeMsg, putLe16]

/-- A buffer of MSG's layout validates as its frame, whatever follows it and whatever the checksum is (R125, R129): its
body length says where the bytes under the checksum end, so the checksum is compared with the one the layout has there. -/
theorem parseMessage_of_layout (crc : Bytes → Word) (c : Byte) {P : Bytes} {n : Word} (hn : n.toNat = 1 + P.length)
    (extra : Bytes) :
    parseMessage crc ([0xAA, 0x55, lo8 n, hi8 n] ++ (c :: P) ++ (putLe16 (crc (c :: P)) ++ extra)) = .ok ⟨c, P⟩ := by
  generalize hM : [0xAA, 0x55, lo8 n, hi8 n] ++ (c :: P) ++ (putLe16 (crc (c :: P)) ++ extra) = M
  have hlen : M.length = 7 + P.length + extra.length := by
    simp [← hM, putLe16]
    omega
  have hbody : le16 M 2 = n := hM ▸ le16_pair n (c :: P ++ (putLe16 (crc (c :: P)) ++ extra))
  have hcovered : slice M 4 (4 + (1 + P.length)) = c :: P :=
    hM ▸ slice_middle [0xAA, 0x55, lo8 n, hi8 n] (c :: P) _ _ _ rfl (by simp; omega)
  have hpayload : slice M 5 (4 + (1 + P.length)) = P :=
    hM ▸ slice_middle [0xAA, 0x55, lo8 n, hi8 n, c] P (putLe16 (crc (c :: P)) ++ extra) _ _ rfl (by simp; omega)
  have hcrc : le16 M (4 + (1 + P.length)) = crc (c :: P) := by
    have hhead : ([0xAA, 0x55, lo8 n, hi8 n] ++ (c :: P)).length = 4 + (1 + P.length) := by
      simp
      omega
    rw [← hM, le16_append_right _ _ _ hhead.le, hhead, Nat.sub_self]
    exact le16_pair _ extra
  rw [parseMessage_eq_ok_iff, hbody, hn, hcovered, hpayload, hcrc]
  refine ⟨by omega, ?_, ?_, by omega, by omega, rfl, ?_⟩ <;> rw [← hM] <;> rfl

/-- An encoded message has that layout: R28's bound is what a u16 holds of 1 + p. -/
theorem parseMessage_encodeMsg_append (crc : Bytes → Word) (c : Byte) {P : Bytes} (h : P.length ≤ 65534)
    (extra : Bytes) : parseMessage crc (encodeMsg crc c P ++ extra) = .ok ⟨c, P⟩ := by
  have hn : (BitVec.ofNat 16 (1 + P.length)).toNat = 1 + P.length := by
    rw [BitVec.toNat_ofNat]
    omega
  rw [encodeMsg_append]
  exact parseMessage_of_layout crc c hn extra

/-- The padding behind a message of one report is surplus to its validation. -/
theorem parseReport_chunkReport_encodeMsg (crc : Bytes → Word) (c : Byte) {P : Bytes} (h : P.length ≤ 56) :
    parseReport crc (chunkReport (encodeMsg crc c P)) = .ok ⟨c, P⟩ := by
  have hlen : (BitVec.ofNat 8 (7 + P.length)).toNat = 7 + P.length := by
    rw [BitVec.toNat_ofNat]
    omega
  rw [chunkReport_eq_cons, encodeMsg_length, parseReport_cons_eq_ok_iff, hlen]
  exact ⟨by omega, parseMessage_encodeMsg_append crc c (by omega) _⟩

/-- FRM.PARSEC of a message's reports validates the message: reassembly concatenates the slices it was cut into (R126). -/
theorem parseReports_messageReports (crc : Bytes → Word) {M : Bytes} (h : 1 ≤ M.length) :
    parseReports crc (messageReports M) = parseMessage crc M := by
  rw [parseReports, messageReports_eq_map h, reassemble_chunkReports _ (messageSlices_short M), messageSlices_flatten]

theorem completes_frmParse_of_ok {r : Bytes} {s : State} {f : Frame} (h : parseReport s.crc16 r = .ok f) :
    Completes (.frmParse r) s (.ok (.frame f)) := by
  rw [← parseAnswer_ok, ← h]
  exact completes_parsed rfl

theorem completes_frmParsec_of_ok {rs : List Bytes} {s : State} {f : Frame} (h : parseReports s.crc16 rs = .ok f) :
    Completes (.frmParsec rs) s (.ok (.frame f)) := by
  rw [← parseAnswer_ok, ← h]
  exact completes_parsed rfl

/-- Settles O30: the reports reassemble to the encoded message, which validates as the frame under the same checksum. -/
theorem buildChunkedThenParsec : Obligations.BuildChunkedThenParsec := by
  intro c P s s' h hs
  refine ⟨_, completes_frmBuildc_reports c s h, completes_frmParsec_of_ok ?_⟩
  calc parseReports s'.crc16 (messageReports (encodeMsg s.crc16 c P))
    _ = parseMessage s'.crc16 (encodeMsg s.crc16 c P) :=
        parseReports_messageReports _ (by rw [encodeMsg_length]; omega)
    _ = parseMessage s.crc16 (encodeMsg s.crc16 c P ++ []) := by rw [crc16_congr hs, List.append_nil]
    _ = .ok ⟨c, P⟩ := parseMessage_encodeMsg_append s.crc16 c h []

/-- Settles O29: the one report parses as the frame of the message behind its length byte, under the same checksum. -/
theorem buildThenParse : Obligations.BuildThenParse := by
  intro c P s s' h hs
  refine ⟨_, completes_frmBuild_report c s h, completes_frmParse_of_ok ?_⟩
  rw [crc16_congr hs]
  exact parseReport_chunkReport_encodeMsg s.crc16 c h

/-- Settles O18: the reference vector of R93 gives the two checksum bytes of FRAME1, and the round trip the parse. -/
theorem buildFrameWorkedExample : Obligations.BuildFrameWorkedExample := by
  intro s
  have hshort : [(0x02 : Byte)].length ≤ 56 := by decide
  have hreport : chunkReport (encodeMsg s.crc16 0xA6 [0x02]) =
      [0x08, 0xAA, 0x55, 0x02, 0x00, 0xA6, 0x02, 0x65, 0x68] ++ zeros 55 := by
    rw [chunkReport_encodeMsg s.crc16 0xA6 hshort, s.crc16_reference]
    rfl
  rw [← hreport]
  exact ⟨completes_frmBuild_report 0xA6 s hshort,
    completes_frmParse_of_ok (parseReport_chunkReport_encodeMsg s.crc16 0xA6 hshort)⟩

end Sys2Proof.Machine
end

section
/-! SUPPORT. The parse operations through their checks: FRM.PARSE and FRM.PARSEC give the frame when the checks hold and
NoFrame when one fails, whichever it is (O25, O26). -/

namespace Sys2Proof.Machine

theorem completes_frmParse (r : Bytes) (s : State) : Completes (.frmParse r) s (parseAnswer (parseReport s.crc16 r)) :=
  completes_parsed rfl

theorem completes_frmParsec (rs : List Bytes) (s : State) :
    Completes (.frmParsec rs) s (parseAnswer (parseReports s.crc16 rs)) :=
  completes_parsed rfl

/-- A parse that gives the frame `f` under the condition `p`, and no other frame, answers `f` or NoFrame (R115). -/
theorem parseAnswer_eq_ite {e : Except NoFrameReason Frame} {p : Prop} [Decidable p] {f : Frame}
    (h : ∀ g, e = .ok g ↔ p ∧ g = f) : parseAnswer e = if p then .ok (.frame f) else .noFrame := by
  by_cases hp : p
  · rw [if_pos hp, (h f).mpr ⟨hp, rfl⟩, parseAnswer_ok]
  · rw [if_neg hp]
    cases e with
    | error reason => rfl
    | ok g => exact absurd ((h g).mp rfl).1 hp

/-- Two parses that give the same frames have the same outcome: the reason of a failure is not part of it (R248). -/
theorem parseAnswer_congr {e e' : Except NoFrameReason Frame} (h : ∀ f, e = .ok f ↔ e' = .ok f) :
    parseAnswer e = parseAnswer e' := by
  cases e with
  | ok f => rw [(h f).mp rfl]
  | error reason =>
    cases e' with
    | ok f => cases (h f).mpr rfl
    | error reason' => rfl

theorem le16_add_eq_word16 (B : Bytes) (k b : Nat) : le16 B (k + b) =
    word16 (byteAt B (k + b)) (byteAt B (k + 1 + b)) := by
  rw [le16, Nat.add_right_comm k b 1]

/-- Settles O25: the checks of R116, with the trailer's two bytes read one by one. -/
theorem parseAcceptsExactlyValidReports : Obligations.ParseAcceptsExactlyValidReports := by
  intro r s b
  rw [← parseAnswer_eq_ite (e := parseReport s.crc16 r)]
  · exact completes_frmParse r s
  · intro g
    rw [parseReport_eq_ok_iff, le16_add_eq_word16]
    simp only [and_assoc, b]

/-- A report with fewer bytes than it declares ends the reassembly (R127). -/
theorem reassemble_cons_overrun (m : Byte) (rest : Bytes) (rs : List Bytes) (h : rest.length < m.toNat) :
    reassemble ((m :: rest) :: rs) = .error .chunkOverrun :=
  if_pos h

/-- A report that supplies what it declares adds its meaningful slice; one that does not ends it (R126, R127). -/
theorem reassemble_cons_eq_ok_iff (r : Bytes) (rs : List Bytes) (B : Bytes) :
    reassemble (r :: rs) = .ok B ↔ suppliesDeclared r = true ∧
      ∃ C, reassemble rs = .ok C ∧ B = slice r 1 (1 + (byteAt r 0).toNat) ++ C := by
  cases r with
  | nil => simp [reassemble, suppliesDeclared]
  | cons m rest =>
    have hsupplies : suppliesDeclared (m :: rest) = true ↔ m.toNat ≤ rest.length := by
      simp [suppliesDeclared, Nat.add_comm 1]
    have hslice : slice (m :: rest) 1 (1 + (byteAt (m :: rest) 0).toNat) = rest.take m.toNat := by
      simp [slice]
    rw [hsupplies, hslice]
    by_cases h : m.toNat ≤ rest.length
    · rw [reassemble_cons m rest rs h]
      cases reassemble rs <;> simp [h, eq_comm]
    · simp [reassemble_cons_overrun m rest rs (by omega), h]

/-- Reassembly succeeds on the lists that supply what they declare, and gives their slices in order (R126). -/
theorem reassemble_eq_ok_iff (rs : List Bytes) (B : Bytes) :
    reassemble rs = .ok B ↔ (∀ r ∈ rs, suppliesDeclared r = true) ∧ B = reassembledBuffer rs := by
  induction rs generalizing B with
  | nil => simp [reassemble, reassembledBuffer]
  | cons r rs ih => simp [reassemble_cons_eq_ok_iff, ih, reassembledBuffer, and_assoc]

theorem parseReports_eq_ok_iff (crc : Bytes → Word) (rs : List Bytes) (f : Frame) :
    parseReports crc rs = .ok f ↔
      (∀ r ∈ rs, suppliesDeclared r = true) ∧ parseMessage crc (reassembledBuffer rs) = .ok f := by
  unfold parseReports
  cases h : reassemble rs with
  | ok B =>
    obtain ⟨hall, rfl⟩ := (reassemble_eq_ok_iff rs B).mp h
    exact (and_iff_right hall).symm
  | error reason =>
    have hnot : ¬ ∀ r ∈ rs, suppliesDeclared r = true := fun hall => by
      cases h.symm.trans ((reassemble_eq_ok_iff rs _).mpr ⟨hall, rfl⟩)
    simp [hnot]

/-- Settles O26: reassembly gives the concatenated slices, and their validation makes the checks of R125. -/
theorem parsecAcceptsExactlyValidLists : Obligations.ParsecAcceptsExactlyValidLists := by
  intro rs s B b
  rw [← parseAnswer_eq_ite (e := parseReports s.crc16 rs)]
  · exact completes_frmParsec rs s
  · intro g
    rw [parseReports_eq_ok_iff, parseMessage_eq_ok_iff, le16_add_eq_word16]
    simp only [and_assoc, b, B]

/-- Settles O27: only the concatenated slices are validated, and an encoded message validates whatever follows. -/
theorem parsecAcceptsAnySlicing : Obligations.ParsecAcceptsAnySlicing := by
  intro rs c P extra s hP hall hB
  apply completes_frmParsec_of_ok
  rw [parseReports_eq_ok_iff, hB]
  exact ⟨hall, parseMessage_encodeMsg_append s.crc16 c hP extra⟩

end Sys2Proof.Machine
end

section
/-! SUPPORT. R131: a length byte of 6 + body_size declares the message and no surplus, and surplus does not change its
validation, so FRM.PARSE of a report and FRM.PARSEC of it alone agree (O28). -/

namespace Sys2Proof.Machine

variable (crc : Bytes → Word)

theorem byteAt_append_left (A B : Bytes) {i : Nat} (h : i < A.length) : byteAt (A ++ B) i = byteAt A i := by
  rw [byteAt_append, if_pos h]

theorem le16_append_left (A B : Bytes) {i : Nat} (h : i + 1 < A.length) : le16 (A ++ B) i = le16 A i := by
  rw [le16, le16, byteAt_append_left A B (by omega), byteAt_append_left A B h]

/-- Surplus is ignored (R129): what stands behind the message that a buffer declares does not change the frame. -/
theorem parseMessage_append_eq_ok_iff (A extra : Bytes) (f : Frame) (h : 6 + (le16 A 2).toNat ≤ A.length) :
    parseMessage crc (A ++ extra) = .ok f ↔ parseMessage crc A = .ok f := by
  have hbody : le16 (A ++ extra) 2 = le16 A 2 := le16_append_left A extra (by omega)
  rw [parseMessage_eq_ok_iff, parseMessage_eq_ok_iff, hbody]
  generalize (le16 A 2).toNat = b at h
  rw [byteAt_append_left A extra (by omega), byteAt_append_left A extra (by omega),
    byteAt_append_left A extra (by omega), slice_append_left A extra _ _ (by omega),
    slice_append_left A extra _ _ (by omega), le16_append_left A extra (by omega), List.length_append]
  have hlen : 1 ≤ b → (7 ≤ A.length + extra.length ↔ 7 ≤ A.length) := by omega
  have hfits : 6 + b ≤ A.length + extra.length ↔ 6 + b ≤ A.length := by omega
  rw [hfits]
  tauto

/-- FRM.PARSEC of one report validates the bytes its length byte declares, when it has them (R126). -/
theorem parseReports_singleton_eq_ok_iff (m : Byte) (B : Bytes) (f : Frame) :
    parseReports crc [m :: B] = .ok f ↔ m.toNat ≤ B.length ∧ parseMessage crc (B.take m.toNat) = .ok f := by
  rw [parseReports_eq_ok_iff]
  simp [suppliesDeclared, reassembledBuffer, slice, Nat.add_comm 1]

/-- FRM.PARSE leaves as surplus what FRM.PARSEC cuts off behind the message; both need the message whole. -/
theorem parseReport_eq_ok_iff_parseReports (r : Bytes) (f : Frame) (h : (byteAt r 0).toNat = 6 + (le16 r 3).toNat) :
    parseReport crc r = .ok f ↔ parseReports crc [r] = .ok f := by
  cases r with
  | nil =>
    have hzero : (byteAt [] 0).toNat = 0 := rfl
    omega
  | cons m B =>
    have hm : m.toNat = 6 + (le16 B 2).toNat := h
    rw [parseReport_cons_eq_ok_iff, parseReports_singleton_eq_ok_iff]
    have hwhole : parseMessage crc B = .ok f → 7 ≤ m.toNat ∧ m.toNat ≤ B.length := fun hB => by
      obtain ⟨-, -, -, hbody, hfits, -⟩ := parseMessage_ok crc B f hB
      omega
    have hcut : m.toNat ≤ B.length → (parseMessage crc (B.take m.toNat) = .ok f ↔ parseMessage crc B = .ok f) :=
      fun hle => by
        have hlen : (B.take m.toNat).length = m.toNat := List.length_take_of_le hle
        have hbody : le16 (B.take m.toNat) 2 = le16 B 2 := by
          conv_rhs => rw [← List.take_append_drop m.toNat B]
          exact (le16_append_left _ _ (by omega)).symm
        rw [← parseMessage_append_eq_ok_iff crc _ (B.drop m.toNat) f (by rw [hbody, hlen, hm]),
          List.take_append_drop]
    tauto

/-- Settles O28: the two operations give the same frames, hence the same outcome. -/
theorem parseAndParsecAgree : Obligations.ParseAndParsecAgree := by
  intro r s h
  have hsame : parseAnswer (parseReport s.crc16 r) = parseAnswer (parseReports s.crc16 [r]) :=
    parseAnswer_congr fun f => parseReport_eq_ok_iff_parseReports s.crc16 r f h
  exact ⟨_, completes_frmParse r s, hsame ▸ completes_frmParsec [r] s⟩

end Sys2Proof.Machine
end

section
/-! SUPPORT. The name field (R142, R143): its bytes, where its first null is, and that a valid name comes back (O37). -/

namespace Sys2Proof.Machine

/-- A byte of the name as PST.ENC writes it: one above 0x7F is replaced (R142). -/
def repairByte (c : Params) (b : Byte) : Byte := if b.toNat ≤ 0x7F then b else c.nameReplacement

theorem nameEnc_eq_fit_map (c : Params) (n : Nat) (s : Bytes) : nameEnc c n s = fit (s.map (repairByte c)) n := rfl

theorem byteAt_map (f : Byte → Byte) (s : Bytes) (i : Nat) :
    byteAt (s.map f) i = if i < s.length then f (byteAt s i) else 0 := by
  by_cases h : i < s.length
  · simp [byteAt, h]
  · rw [if_neg h, byteAt_of_length_le _ _ (by simpa using h)]

theorem byteAt_nameEnc (c : Params) (s : Bytes) {n i : Nat} (hi : i < n) :
    byteAt (nameEnc c n s) i = if i < s.length then repairByte c (byteAt s i) else 0 := by
  rw [nameEnc_eq_fit_map, byteAt_fit _ _ _ hi, byteAt_map]

/-- Padding with zeros is invisible to a text without a null. -/
theorem untilNull_append_zeros {s : Bytes} (h : ∀ b ∈ s, b ≠ 0) (n : Nat) : untilNull (s ++ zeros n) = s := by
  have hs : ∀ b ∈ s, (b != 0) = true := fun b hb => bne_iff_ne.mpr (h b hb)
  have hz : (zeros n).takeWhile (fun b => b != 0) = [] := by cases n <;> rfl
  rw [untilNull, List.takeWhile_append_of_pos hs, hz, List.append_nil]

/-- A valid name (R32) needs no repair and no cut, and ends at its padding. -/
theorem nameDec_nameEnc (c : Params) {s : Bytes} (h : validName s = true) : nameDec (nameEnc c 14 s) = s := by
  simp only [validName, Bool.and_eq_true, decide_eq_true_eq, List.all_eq_true, bne_iff_ne] at h
  obtain ⟨hlen, hbytes⟩ := h
  have hrepair : s.map (repairByte c) = s :=
    (List.map_congr_left fun b hb => if_pos (hbytes b hb).2).trans (List.map_id s)
  rw [nameEnc_eq_fit_map, hrepair, fit_of_le s 14 hlen]
  exact untilNull_append_zeros (fun b hb => (hbytes b hb).1) _

/-- A text has at least n bytes when the first n bytes of its field are there and none is null (R143). -/
theorem le_length_untilNull_iff (f : Bytes) (n : Nat) :
    n ≤ (untilNull f).length ↔ n ≤ f.length ∧ ∀ j < n, byteAt f j ≠ 0 := by
  induction f generalizing n with
  | nil =>
    show n ≤ 0 ↔ n ≤ 0 ∧ _
    exact ⟨fun h => ⟨h, fun j hj => by omega⟩, And.left⟩
  | cons b f ih =>
    cases n with
    | zero => simp
    | succ n =>
      rw [Nat.forall_lt_succ_left, byteAt_cons_zero]
      simp only [byteAt_cons_succ, List.length_cons, Nat.add_le_add_iff_right]
      by_cases hb : b = 0
      · simp [untilNull, hb]
      · have hcons : untilNull (b :: f) = b :: untilNull f := List.takeWhile_cons_of_pos (bne_iff_ne.mpr hb)
        rw [hcons, List.length_cons, Nat.add_le_add_iff_right, ih]
        exact and_congr_right fun _ => (and_iff_right hb).symm

theorem byteAt_untilNull (f : Bytes) {i : Nat} (h : i < (untilNull f).length) : byteAt (untilNull f) i = byteAt f i := by
  have hf : i < f.length := h.trans_le (untilNull_length_le f)
  rw [byteAt_eq_getElem _ _ h, byteAt_eq_getElem _ _ hf]
  exact (List.takeWhile_prefix _).getElem h

/-- Settles O37: the byte form of the encoding, and the round trip of a name that needs no repair. -/
theorem nameCodecRoundTrip : Obligations.NameCodecRoundTrip := by
  intro c s
  exact ⟨nameEnc_length c 14 s, fun i hi => byteAt_nameEnc c s hi, nameDec_nameEnc c⟩

end Sys2Proof.Machine
end

section
/-! SUPPORT. The module codec on a record of its kind (R156, R157): what is written is read, and what is read is
written back but for the enabled byte. -/

namespace Sys2Proof.Machine

theorem three_le_size (k : ModuleKind) : 3 ≤ k.size := by cases k <;> decide

theorem size_eq_bodyLen_add (k : ModuleKind) : k.size = k.bodyLen + 3 := by cases k <;> rfl

/-- MOD.DEC.k of a header and a body of the kind's length (R157). -/
theorem modDec_record {k : ModuleKind} {body : Bytes} (hb : body.length = k.bodyLen) (h x t : Byte) :
    modDec k ([h, x, t] ++ body) = ⟨h, x != 0, t, body⟩ := by
  have hlen : ([h, x, t] ++ body).length = k.size := by
    rw [size_eq_bodyLen_add, ← hb, List.length_append, Nat.add_comm]
    rfl
  have hbody : slice ([h, x, t] ++ body) 3 k.size = body := by
    rw [slice_append_right _ _ _ _ (le_refl 3)]
    exact slice_all _ _ (by rw [hb]; rfl)
  rw [modDec, fit_of_length_eq _ _ hlen, hbody]
  rfl

theorem body_length_of_wf {m : EffectModule} {k : ModuleKind} (h : m.wf k = true) : m.body.length = k.bodyLen :=
  beq_iff_eq.mp h

/-- The enabled byte is written as 01 or 00, and only 00 reads as false (R75). -/
theorem enabledByte_bne_zero (x : Bool) : ((if x then 0x01 else 0x00 : Byte) != 0) = x := by cases x <;> rfl

/-- MOD.DEC.k reads back what MOD.ENC.k writes (R180). -/
theorem modDec_modEnc {m : EffectModule} {k : ModuleKind} (h : m.wf k = true) : modDec k (modEnc m) = m := by
  rw [modEnc, modDec_record (body_length_of_wf h), enabledByte_bne_zero]

/-- Byte j of the body MOD.DEC.k reads is byte 3 + j of the buffer, zero-extended (R157). -/
theorem byteAt_modDec_body (k : ModuleKind) (buf : Bytes) {j : Nat} (hj : j < k.size - 3) :
    byteAt (modDec k buf).body j = byteAt buf (3 + j) := by
  change byteAt (slice (fit buf k.size) 3 k.size) j = _
  rw [byteAt_slice _ _ _ _ hj, byteAt_fit _ _ _ (by omega)]

theorem modDec_body_length (k : ModuleKind) (buf : Bytes) : (modDec k buf).body.length = k.size - 3 :=
  body_length_of_wf (modDec_wf k buf)

theorem modDec_header (k : ModuleKind) (buf : Bytes) : (modDec k buf).header = byteAt buf 0 :=
  byteAt_fit _ _ _ (by have := three_le_size k; omega)

theorem modDec_enabled (k : ModuleKind) (buf : Bytes) : (modDec k buf).enabled = (byteAt buf 1 != 0) :=
  congrArg (· != 0) (byteAt_fit _ _ _ (by have := three_le_size k; omega))

theorem modDec_type (k : ModuleKind) (buf : Bytes) : (modDec k buf).type = byteAt buf 2 :=
  byteAt_fit _ _ _ (by have := three_le_size k; omega)

theorem byteAt_modEnc_body (m : EffectModule) (j : Nat) : byteAt (modEnc m) (3 + j) = byteAt m.body j := by
  rw [Nat.add_comm]
  rfl

theorem byteAt_modEnc_one (m : EffectModule) : byteAt (modEnc m) 1 = if m.enabled then 0x01 else 0x00 := rfl

/-- The record of the module read from a buffer has the buffer's bytes, but for the enabled byte made 01 if non-zero
(R156, R157). -/
theorem byteAt_modEnc_modDec (k : ModuleKind) (buf : Bytes) {i : Nat} (hi : i < k.size) :
    byteAt (modEnc (modDec k buf)) i =
      if i = 1 then (if byteAt buf 1 = 0 then 0x00 else 0x01) else byteAt buf i := by
  match i with
  | 0 => exact modDec_header k buf
  | 1 =>
    rw [byteAt_modEnc_one, modDec_enabled, if_pos rfl]
    by_cases h : byteAt buf 1 = 0 <;> simp [h]
  | 2 => exact modDec_type k buf
  | j + 3 =>
    rw [if_neg (by omega), Nat.add_comm, byteAt_modEnc_body]
    exact byteAt_modDec_body k buf (by omega)

end Sys2Proof.Machine
end

section
/-! SUPPORT. PST.DEC field by field (R144 to R146): it reads a buffer through `byteAt` only, and reads a record as the
preset it was written from (O31, O33, O34, O35). -/

namespace Sys2Proof.Machine

theorem completes_pstNew (s : State) : Completes .pstNew s (.ok (.preset emptyPreset)) := completes_done rfl

theorem completes_pstEnc (p : Preset) (s : State) :
    Completes (.pstEnc p) s (.ok (.record (presetEncode s.params p))) := completes_done rfl

theorem completes_pstDec (buf : Bytes) (s : State) : Completes (.pstDec buf) s (.ok (.preset (presetDecode buf))) :=
  completes_done rfl

/-- Two presets are equal when their effect orders, their names and their nine modules are (R31). -/
theorem preset_ext {p q : Preset} (ho : p.effectOrder = q.effectOrder) (hn : p.name = q.name)
    (hk : ∀ k, presetModule p k = presetModule q k) : p = q := by
  cases p
  cases q
  rw [Preset.mk.injEq]
  exact ⟨ho, hn, hk .fx, hk .od, hk .amp, hk .cab, hk .ns, hk .eq, hk .mod, hk .delay, hk .reverb⟩

/-- The bytes a sequence reads as, listed. -/
theorem eq_map_byteAt {A : Bytes} {n : Nat} {f : Nat → Byte} (hl : A.length = n) (h : ∀ i < n, byteAt A i = f i) :
    A = (List.range n).map f := by
  subst hl
  apply List.ext_getElem (by simp)
  intro i hi _
  rw [← byteAt_eq_getElem A i hi, h i hi]
  simp

/-- A field of a record that is zero-extended or cut to N bytes (R145). -/
theorem slice_fit_eq_map (buf : Bytes) {a b N : Nat} (h : b ≤ N) :
    slice (fit buf N) a b = (List.range (b - a)).map (fun i => byteAt buf (a + i)) := by
  refine eq_map_byteAt (by rw [slice_length, fit_length]; omega) fun i hi => ?_
  rw [byteAt_slice _ _ _ _ hi, byteAt_fit _ _ _ (by omega)]

/-- The module records lie between the name and the tail (R69). -/
theorem offset_add_size_le (k : ModuleKind) : 26 ≤ k.offset ∧ k.offset + k.size ≤ 159 := by cases k <;> decide

theorem byteAt_moduleSlice (k : ModuleKind) (b : Bytes) {i : Nat} (hi : i < k.size) :
    byteAt (moduleSlice k b) i = byteAt b (k.offset + i) :=
  byteAt_slice _ _ _ _ (by omega)

theorem byteAt_moduleSlice_fit (k : ModuleKind) (buf : Bytes) {i : Nat} (hi : i < k.size) :
    byteAt (moduleSlice k (fit buf 512)) i = byteAt buf (k.offset + i) := by
  have hk := offset_add_size_le k
  rw [byteAt_moduleSlice k _ hi, byteAt_fit _ _ _ (by omega)]

theorem presetDecode_effectOrder (buf : Bytes) :
    (presetDecode buf).effectOrder = (List.range 10).map (fun i => byteAt buf i) := by
  have h : (presetDecode buf).effectOrder = slice (fit buf 512) 0 10 := rfl
  rw [h, slice_fit_eq_map buf (by decide)]
  simp only [Nat.zero_add, Nat.sub_zero]

theorem presetDecode_name (buf : Bytes) :
    (presetDecode buf).name = untilNull ((List.range 14).map (fun i => byteAt buf (12 + i))) :=
  congrArg untilNull (slice_fit_eq_map buf (by decide))

theorem presetModule_presetDecode (buf : Bytes) (k : ModuleKind) :
    presetModule (presetDecode buf) k =
      ⟨byteAt buf k.offset, byteAt buf (k.offset + 1) != 0, byteAt buf (k.offset + 2),
        (List.range (k.size - 3)).map (fun i => byteAt buf (k.offset + 3 + i))⟩ := by
  have hk := three_le_size k
  rw [presetModule_decode, EffectModule.mk.injEq, modDec_header, modDec_enabled, modDec_type,
    byteAt_moduleSlice_fit k buf (by omega), byteAt_moduleSlice_fit k buf (by omega),
    byteAt_moduleSlice_fit k buf (by omega)]
  refine ⟨rfl, rfl, rfl, eq_map_byteAt (modDec_body_length k _) fun i hi => ?_⟩
  rw [byteAt_modDec_body k _ hi, byteAt_moduleSlice_fit k buf (by omega), Nat.add_assoc]

/-- Settles O33: each field of the zero-extended buffer, listed byte by byte. -/
theorem presetDecodeFields : Obligations.PresetDecodeFields := by
  intro buf s
  exact ⟨presetDecode buf, completes_pstDec buf s, presetDecode_wf buf, presetDecode_effectOrder buf,
    presetDecode_name buf, presetModule_presetDecode buf⟩

/-- PST.DEC reads the bytes below 159 but for the size field (R139, R140). -/
theorem presetDecode_congr {x y : Bytes} (h : ∀ i, i < 159 → i ≠ 10 → i ≠ 11 → byteAt x i = byteAt y i) :
    presetDecode x = presetDecode y := by
  refine preset_ext ?_ ?_ fun k => ?_
  · rw [presetDecode_effectOrder, presetDecode_effectOrder]
    refine List.map_congr_left fun i hi => ?_
    have := List.mem_range.mp hi
    exact h i (by omega) (by omega) (by omega)
  · rw [presetDecode_name, presetDecode_name]
    refine congrArg untilNull (List.map_congr_left fun i hi => ?_)
    have := List.mem_range.mp hi
    exact h (12 + i) (by omega) (by omega) (by omega)
  · obtain ⟨hlo, hhi⟩ := offset_add_size_le k
    have h3 := three_le_size k
    have hk (i : Nat) (hi : i < k.size) : byteAt x (k.offset + i) = byteAt y (k.offset + i) :=
      h _ (by omega) (by omega) (by omega)
    rw [presetModule_presetDecode, presetModule_presetDecode, EffectModule.mk.injEq]
    refine ⟨hk 0 (by omega), by rw [hk 1 (by omega)], hk 2 (by omega), List.map_congr_left fun i hi => ?_⟩
    have := List.mem_range.mp hi
    rw [Nat.add_assoc]
    exact hk (3 + i) (by omega)

/-- Settles O34: the buffers decode to the same preset. -/
theorem presetDecodeIgnoresSizeFieldAndTail : Obligations.PresetDecodeIgnoresSizeFieldAndTail := by
  intro x y s h
  refine ⟨presetDecode x, completes_pstDec x s, ?_⟩
  rw [presetDecode_congr h]
  exact completes_pstDec y s

/-- PST.DEC of a record PST.ENC wrote finds each field at its offset, and each field's codec gives it back (R149). -/
theorem presetDecode_presetEncode (c : Params) {p : Preset} (h : p.valid = true) :
    presetDecode (presetEncode c p) = p := by
  obtain ⟨hwf, hname⟩ := Bool.and_eq_true_iff.mp h
  have hfit : fit (presetEncode c p) 512 = presetEncode c p :=
    fit_of_length_eq _ _ (presetEncode_length_of_wf c p hwf)
  refine preset_ext ?_ ?_ fun k => ?_
  · calc (presetDecode (presetEncode c p)).effectOrder
      _ = slice (fit (presetEncode c p) 512) 0 10 := rfl
      _ = slice (presetEncode c p) 0 10 := by rw [hfit]
      _ = p.effectOrder := slice_presetEncode c hwf 0
  · calc (presetDecode (presetEncode c p)).name
      _ = nameDec (slice (fit (presetEncode c p) 512) 12 26) := rfl
      _ = nameDec (slice (presetEncode c p) 12 26) := by rw [hfit]
      _ = nameDec (nameEnc c 14 p.name) := congrArg nameDec (slice_presetEncode c hwf 2)
      _ = p.name := nameDec_nameEnc c hname
  · rw [presetModule_decode, hfit, moduleSlice_presetEncode c hwf k, modDec_modEnc (presetModule_wf p k hwf)]

/-- Settles O35: the record decodes to the preset it was encoded from. -/
theorem presetRoundTrip : Obligations.PresetRoundTrip := by
  intro p s h
  refine ⟨_, completes_pstEnc p s, ?_⟩
  have hdec := completes_pstDec (presetEncode s.params p) s
  rwa [presetDecode_presetEncode s.params h] at hdec

theorem presetModule_emptyPreset (k : ModuleKind) : presetModule emptyPreset k = emptyModule k := by cases k <;> rfl

/-- Zero bytes, present or missing, read as the empty preset (R136, R145). -/
theorem presetDecode_zeros (n : Nat) : presetDecode (zeros n) = emptyPreset := by
  refine preset_ext ?_ ?_ fun k => ?_
  · rw [presetDecode_effectOrder]
    simp only [byteAt_zeros]
    rfl
  · rw [presetDecode_name]
    simp only [byteAt_zeros]
    rfl
  · rw [presetModule_presetDecode, presetModule_emptyPreset]
    simp only [byteAt_zeros, List.map_const', List.length_range]
    rfl

/-- Settles O31: the empty preset is as R136 gives it, and zero bytes decode to it. -/
theorem newPresetIsEmpty : Obligations.NewPresetIsEmpty := by
  intro s
  refine ⟨emptyPreset, ⟨rfl, rfl, presetModule_emptyPreset⟩, completes_pstNew s, ?_, ?_⟩
  · rw [← presetDecode_zeros 0]
    exact completes_pstDec [] s
  · rw [← presetDecode_zeros 512]
    exact completes_pstDec _ s

end Sys2Proof.Machine
end

section
/-! SUPPORT. The byte side of the preset round trip (R150): the record of what PST.DEC read, field by field (O36). -/

namespace Sys2Proof.Machine

/-- A byte of a name field that is read and written back: 00 from the first null on, else repaired (R142, R143). -/
theorem byteAt_nameEnc_nameDec (c : Params) {f : Bytes} {n i : Nat} (hf : f.length = n) (hi : i < n) :
    byteAt (nameEnc c n (nameDec f)) i =
      if ∀ j < i + 1, byteAt f j ≠ 0 then repairByte c (byteAt f i) else 0 := by
  have hlt : i < (nameDec f).length ↔ ∀ j < i + 1, byteAt f j ≠ 0 :=
    (le_length_untilNull_iff f (i + 1)).trans (and_iff_right (by omega))
  rw [byteAt_nameEnc c _ hi]
  by_cases h : i < (nameDec f).length
  · rw [if_pos h, if_pos (hlt.mp h)]
    exact congrArg (repairByte c) (byteAt_untilNull f h)
  · rw [if_neg h, if_neg (mt hlt.mpr h)]

/-- Every byte between the name and the tail is a module's: each record starts where the one before it ends (R69). -/
theorem exists_module_of_offset {i : Nat} (hlo : 26 ≤ i) (hhi : i < 159) :
    ∃ k : ModuleKind, k.offset ≤ i ∧ i < k.offset + k.size := by
  by_contra h
  have hk (k : ModuleKind) (ho : k.offset ≤ i) : k.offset + k.size ≤ i := not_lt.mp fun hi => h ⟨k, ho, hi⟩
  have hend : 159 ≤ i :=
    hk .reverb (hk .delay (hk .mod (hk .eq (hk .ns (hk .cab (hk .amp (hk .od (hk .fx hlo))))))))
  omega

theorem enabledOffsets_eq : [27, 40, 51, 68, 81, 92, 115, 130, 147] =
    ModuleKind.all.map (fun k => k.offset + 1) := rfl

section
variable (c : Params) {b : Bytes}

/-- The effect order is written back as it was read (R138, R144). -/
theorem byteAt_reencode_effectOrder (hb : b.length = 512) {i : Nat} (hi : i < 10) :
    byteAt (presetEncode c (presetDecode b)) i = byteAt b i := by
  have ho : slice (presetEncode c (presetDecode b)) 0 10 = slice b 0 10 :=
    calc slice (presetEncode c (presetDecode b)) 0 10
      _ = (presetDecode b).effectOrder := slice_presetEncode c (presetDecode_wf b) 0
      _ = slice (fit b 512) 0 10 := rfl
      _ = slice b 0 10 := by rw [fit_of_length_eq b 512 hb]
  rw [← Nat.zero_add i, ← byteAt_slice _ 0 10 i hi, ho, byteAt_slice _ 0 10 i hi]

/-- The name field is written back by the name codec. -/
theorem byteAt_reencode_name (hb : b.length = 512) {i : Nat} (hi : i < 14) :
    byteAt (presetEncode c (presetDecode b)) (12 + i) =
      if ∀ j < i + 1, byteAt b (12 + j) ≠ 0 then repairByte c (byteAt b (12 + i)) else 0 := by
  have hname : slice (presetEncode c (presetDecode b)) 12 26 = nameEnc c 14 (nameDec (slice b 12 26)) :=
    calc slice (presetEncode c (presetDecode b)) 12 26
      _ = nameEnc c 14 (presetDecode b).name := slice_presetEncode c (presetDecode_wf b) 2
      _ = nameEnc c 14 (nameDec (slice (fit b 512) 12 26)) := rfl
      _ = nameEnc c 14 (nameDec (slice b 12 26)) := by rw [fit_of_length_eq b 512 hb]
  have hlen : (slice b 12 26).length = 14 := by rw [slice_length, hb]; rfl
  have hbyte (j : Nat) (hj : j < i + 1) : byteAt (slice b 12 26) j = byteAt b (12 + j) :=
    byteAt_slice b 12 26 j (by omega)
  rw [← byteAt_slice _ 12 26 i hi, hname, byteAt_nameEnc_nameDec c hlen hi, hbyte i (Nat.lt_succ_self i)]
  exact if_congr (forall₂_congr fun j hj => by rw [hbyte j hj]) rfl rfl

/-- A module's record is written back by the module codec (R156, R157). -/
theorem byteAt_reencode_module (hb : b.length = 512) (k : ModuleKind) {j : Nat} (hj : j < k.size) :
    byteAt (presetEncode c (presetDecode b)) (k.offset + j) =
      if j = 1 then (if byteAt b (k.offset + 1) = 0 then 0x00 else 0x01) else byteAt b (k.offset + j) := by
  have hk := three_le_size k
  rw [← byteAt_moduleSlice k _ hj, moduleSlice_presetEncode c (presetDecode_wf b) k, presetModule_decode,
    fit_of_length_eq b 512 hb, byteAt_modEnc_modDec k _ hj, byteAt_moduleSlice k b hj,
    byteAt_moduleSlice k b (by omega)]

/-- The reserved tail is written as zeros (R140). -/
theorem byteAt_presetEncode_tail {p : Preset} (hp : p.wf = true) {i : Nat} (hlo : 159 ≤ i) (hhi : i < 512) :
    byteAt (presetEncode c p) i = 0 := by
  have htail : slice (presetEncode c p) 159 512 = zeros 353 := slice_presetEncode c hp 12
  obtain ⟨j, rfl⟩ := Nat.exists_eq_add_of_le hlo
  rw [← byteAt_slice _ 159 512 j (by omega), htail, byteAt_zeros]

end

/-- Settles O36: the places of R150 are the size field, the name, the nine enabled bytes and the tail. -/
theorem presetByteRoundTrip : Obligations.PresetByteRoundTrip := by
  intro b s hb
  have hwf := presetDecode_wf b
  refine ⟨_, _, completes_pstDec b s, completes_pstEnc _ s, presetEncode_length_of_wf _ _ hwf,
    byteAt_presetEncode_sizeField s.params hwf 0 (by decide), byteAt_presetEncode_sizeField s.params hwf 1 (by decide),
    ?_, ?_, ?_, fun i => byteAt_presetEncode_tail s.params hwf, ?_⟩
  · rintro i hlo hhi ⟨j, hj, hji, hnull⟩
    obtain ⟨i, rfl⟩ := Nat.exists_eq_add_of_le hlo
    obtain ⟨j, rfl⟩ := Nat.exists_eq_add_of_le hj
    rw [byteAt_reencode_name s.params hb (by omega), if_neg]
    exact fun h => h j (by omega) hnull
  · intro i hlo hhi hnull
    obtain ⟨i, rfl⟩ := Nat.exists_eq_add_of_le hlo
    rw [byteAt_reencode_name s.params hb (by omega), if_pos fun j hj => hnull (12 + j) (by omega) (by omega)]
    rfl
  · intro i hi
    rw [enabledOffsets_eq] at hi
    obtain ⟨k, -, rfl⟩ := List.mem_map.mp hi
    exact byteAt_reencode_module s.params hb k (by have := three_le_size k; omega)
  · intro i hhi hfield henabled
    by_cases ho : i < 10
    · exact byteAt_reencode_effectOrder s.params hb ho
    · obtain ⟨k, hlo, hlt⟩ := exists_module_of_offset (i := i) (by omega) hhi
      obtain ⟨j, rfl⟩ := Nat.exists_eq_add_of_le hlo
      have hj : j ≠ 1 := by
        rintro rfl
        exact henabled (enabledOffsets_eq ▸ List.mem_map_of_mem (mem_moduleKind_all k))
      rw [byteAt_reencode_module s.params hb k (by omega), if_neg hj]

end Sys2Proof.Machine
end

section
/-! SUPPORT. The field tables (R178): which entry PST.SETP finds under a settled name, in which kind. -/

namespace Sys2Proof.Machine

variable (c : Params) {k : ModuleKind} {field : String}

/-- A settled entry is found before every open one (entry 10). -/
theorem findField_of_settledFields {e : FieldEntry}
    (h : (settledFields c k).find? (fun e => e.name == field) = some e) : findField c k field = some e := by
  rw [findField, fieldTable, List.find?_append, h, Option.some_or]

theorem findField_header (k : ModuleKind) : findField c k "header" = some ⟨"header", 0, 1⟩ :=
  findField_of_settledFields c rfl

theorem findField_enabled (k : ModuleKind) : findField c k "enabled" = some ⟨"enabled", 1, 1⟩ :=
  findField_of_settledFields c rfl

theorem findField_type (k : ModuleKind) : findField c k "type" = some ⟨"type", 2, 1⟩ :=
  findField_of_settledFields c rfl

theorem findField_time : findField c .delay "time_ms" = some ⟨"time_ms", c.delayTimeOff, 2⟩ :=
  findField_of_settledFields c rfl

theorem findField_band (i : Fin 12) : findField c .eq (bandName i) = some ⟨bandName i, c.eqBandsOff + i, 1⟩ := by
  refine findField_of_settledFields c ?_
  fin_cases i <;> rfl

/-- A name that is in no entry is not found. -/
theorem findField_eq_none (h : ∀ e ∈ fieldTable c k, e.name ≠ field) : findField c k field = none :=
  List.find?_eq_none.mpr fun e he => by simpa using h e he

/-- time_ms is a settled name, and settled for delay only (R178). -/
theorem findField_time_eq_none (hc : c.valid = true) (hk : k ≠ .delay) : findField c k "time_ms" = none := by
  rw [findField_settled c hc k _ (by decide)]
  cases k with
  | delay => exact absurd rfl hk
  | _ => rfl

theorem bandName_mem_settledNames (i : Fin 12) : bandName i ∈ settledNames := by decide +revert

/-- The band names are settled names, and settled for eq only (R178). -/
theorem findField_band_eq_none (hc : c.valid = true) (hk : k ≠ .eq) (i : Fin 12) :
    findField c k (bandName i) = none := by
  rw [findField_settled c hc k _ (bandName_mem_settledNames i)]
  cases k with
  | eq => exact absurd rfl hk
  | _ => fin_cases i <;> rfl

end Sys2Proof.Machine
end

section
/-! SUPPORT. PST.SETP by its three outcomes (R147, R148, R250), and what it refuses (O38, O42). -/

namespace Sys2Proof.Machine

theorem completes_pstSetp {p : Preset} {k : ModuleKind} {field : String} {v : Int} {s : State} {a : Answer}
    (h : setParam s.params p k field v = a) : Completes (.pstSetp p k field v) s a :=
  h ▸ completes_done rfl

variable {c : Params} {p : Preset} {k : ModuleKind} {field : String} {v : Int}

theorem setParam_of_unknown (h : findField c k field = none) : setParam c p k field v = .unknownField k field := by
  rw [setParam, h]

theorem setParam_of_out_of_range {e : FieldEntry} (h : findField c k field = some e)
    (hv : v < 0 ∨ v ≥ 256 ^ e.width) :
    setParam c p k field v = .valueRange field 0 (256 ^ e.width - 1) v := by
  simp only [setParam, h, if_pos hv]

theorem setParam_of_in_range {e : FieldEntry} (h : findField c k field = some e) (h0 : 0 ≤ v)
    (hv : v < 256 ^ e.width) :
    setParam c p k field v = .ok (.preset (presetWithModule p k
      (modDec k (memWrite (modEnc (presetModule p k)) e.offset e.width v.toNat)))) := by
  have hin : ¬ (v < 0 ∨ v ≥ 256 ^ e.width) := by omega
  simp only [setParam, h, if_neg hin]

/-- Settles O38: the name is known and the value in range, so the module is the decoding of its rewritten record. -/
theorem setParamCompletes : Obligations.SetParamCompletes := by
  intro p k field v e s h h0 hv
  exact completes_pstSetp (setParam_of_in_range h h0 hv)

/-- Settles O42: the field is looked up first; a settled name that is settled for other kinds only is unknown. -/
theorem setParamRefusals : Obligations.SetParamRefusals := by
  intro p k field v s
  refine ⟨fun h => ?_, fun e h hv => ?_, fun hc hk => ?_, fun hc hk i => ?_, fun hv => ?_⟩
  · exact completes_pstSetp (setParam_of_unknown (findField_eq_none _ h))
  · exact completes_pstSetp (setParam_of_out_of_range h hv)
  · exact completes_pstSetp (setParam_of_unknown (findField_time_eq_none _ hc hk))
  · exact completes_pstSetp (setParam_of_unknown (findField_band_eq_none _ hc hk i))
  · have hrange : v < 0 ∨ v ≥ 256 ^ 2 := by omega
    exact completes_pstSetp (setParam_of_out_of_range (findField_time s.params) hrange)

end Sys2Proof.Machine
end

section
/-! SUPPORT. PST.SETP on any field that lies in the record (O39), and on the three header fields (O40). -/

namespace Sys2Proof.Machine

theorem memRead_congr {A B : Bytes} {off n : Nat} (h : ∀ i, off ≤ i → i < off + n → byteAt A i = byteAt B i) :
    memRead A off n = memRead B off n := by
  induction n generalizing off with
  | zero => rfl
  | succ n ih =>
    rw [memRead, memRead, h off (le_refl off) (by omega), ih fun i hi hlt => h i (by omega) (by omega)]

theorem ofNat_eq_zero_iff (n : Nat) : BitVec.ofNat 8 n = 0 ↔ n % 256 = 0 := by
  rw [← BitVec.toNat_inj, BitVec.toNat_ofNat]
  rfl

/-- A module's own record holds 01 or 00 at byte 1, so reading it as a flag and writing it again changes nothing. -/
theorem enabledByte_modEnc (m : EffectModule) :
    (if byteAt (modEnc m) 1 = 0 then 0x00 else 0x01) = byteAt (modEnc m) 1 := by
  rw [byteAt_modEnc_one]
  cases m.enabled <;> rfl

section
variable {m : EffectModule} {k : ModuleKind} {off n v : Nat}

/-- Outside the written field the module's record is as it was (R147). -/
theorem byteAt_modEnc_rewritten_outside (hm : m.wf k = true) {i : Nat} (hi : i < off ∨ off + n ≤ i) :
    byteAt (modEnc (modDec k (memWrite (modEnc m) off n v))) i = byteAt (modEnc m) i := by
  have hwrite := byteAt_memWrite_outside (modEnc m) off n v i hi
  by_cases hk : i < k.size
  · rw [byteAt_modEnc_modDec k _ hk]
    split
    · next h1 =>
      subst h1
      rw [hwrite, enabledByte_modEnc]
    · exact hwrite
  · rw [byteAt_of_length_le _ _ (by rw [modEnc_length_of_wf _ k (modDec_wf k _)]; omega),
      byteAt_of_length_le _ _ (by rw [modEnc_length_of_wf m k hm]; omega)]

/-- Inside it the record holds the value's bytes, the enabled byte made 01 if non-zero (R147, R156, R157). -/
theorem byteAt_modEnc_rewritten_inside (hm : m.wf k = true) (hfit : off + n ≤ k.size) {i : Nat} (h1 : off ≤ i)
    (h2 : i < off + n) : byteAt (modEnc (modDec k (memWrite (modEnc m) off n v))) i =
      if i = 1 then (if v / 256 ^ (i - off) % 256 = 0 then 0x00 else 0x01)
      else BitVec.ofNat 8 (v / 256 ^ (i - off)) := by
  have hwrite : byteAt (memWrite (modEnc m) off n v) i = BitVec.ofNat 8 (v / 256 ^ (i - off)) :=
    byteAt_memWrite_inside _ _ _ _ _ (by rw [modEnc_length_of_wf m k hm]; exact hfit) h1 h2
  rw [byteAt_modEnc_modDec k _ (by omega)]
  by_cases hone : i = 1
  · subst hone
    rw [if_pos rfl, if_pos rfl, hwrite]
    exact if_congr (ofNat_eq_zero_iff _) rfl rfl
  · rw [if_neg hone, if_neg hone, hwrite]

/-- A field without the enabled byte reads back the value (R14, R147). -/
theorem memRead_modEnc_rewritten (hm : m.wf k = true) (hfit : off + n ≤ k.size) (hv : v < 256 ^ n)
    (hone : off + n ≤ 1 ∨ 2 ≤ off) : memRead (modEnc (modDec k (memWrite (modEnc m) off n v))) off n = v := by
  have hsame : ∀ i, off ≤ i → i < off + n →
      byteAt (modEnc (modDec k (memWrite (modEnc m) off n v))) i = byteAt (memWrite (modEnc m) off n v) i :=
    fun i hlo hhi => by rw [byteAt_modEnc_modDec k _ (by omega), if_neg (by omega)]
  rw [memRead_congr hsame, memRead_memWrite _ _ _ _ (by rw [modEnc_length_of_wf m k hm]; exact hfit),
    Nat.mod_eq_of_lt hv]

end

/-- Settles O39: module k is the decoding of its rewritten record, and no other part of the preset is written. -/
theorem setParamWritesOneField : Obligations.SetParamWritesOneField := by
  intro p k field v e s hp hf hfit h0 hv
  have hm := presetModule_wf p k hp
  have hv' : v.toNat < 256 ^ e.width := by
    rw [Int.toNat_lt h0]
    exact_mod_cast hv
  refine ⟨_, completes_pstSetp (setParam_of_in_range hf h0 hv), presetWithModule_wf p k _ hp (modDec_wf k _),
    presetWithModule_name .., presetWithModule_effectOrder .., fun j => presetModule_withModule_ne p k j _, ?_⟩
  rw [presetModule_withModule_self]
  exact ⟨fun i => byteAt_modEnc_rewritten_outside hm, fun i => byteAt_modEnc_rewritten_inside hm hfit,
    memRead_modEnc_rewritten hm hfit hv'⟩

/-- A one-byte field of the header is the byte MOD.DEC.k reads it from (R156, R157). -/
theorem modDec_memWrite_header {m : EffectModule} {k : ModuleKind} (hm : m.wf k = true) (v : Nat) :
    modDec k (memWrite (modEnc m) 0 1 v) = { m with header := BitVec.ofNat 8 v } := by
  have h := modDec_record (body_length_of_wf hm) (BitVec.ofNat 8 v) (if m.enabled then 0x01 else 0x00) m.type
  rwa [enabledByte_bne_zero] at h

theorem modDec_memWrite_enabled {m : EffectModule} {k : ModuleKind} (hm : m.wf k = true) (v : Nat) :
    modDec k (memWrite (modEnc m) 1 1 v) = { m with enabled := BitVec.ofNat 8 v != 0 } :=
  modDec_record (body_length_of_wf hm) m.header (BitVec.ofNat 8 v) m.type

theorem modDec_memWrite_type {m : EffectModule} {k : ModuleKind} (hm : m.wf k = true) (v : Nat) :
    modDec k (memWrite (modEnc m) 2 1 v) = { m with type := BitVec.ofNat 8 v } := by
  have h := modDec_record (body_length_of_wf hm) m.header (if m.enabled then 0x01 else 0x00) (BitVec.ofNat 8 v)
  rwa [enabledByte_bne_zero] at h

/-- Settles O40: the three names are settled for every kind, at bytes 0, 1 and 2 of the record. -/
theorem setParamHeaderFields : Obligations.SetParamHeaderFields := by
  intro p k v s hp h0 hv
  have hm := presetModule_wf p k hp
  obtain ⟨n, rfl⟩ := Int.eq_ofNat_of_zero_le h0
  have hn : n < 256 := by omega
  have hrange : (n : Int) < 256 ^ 1 := by omega
  have henabled : (BitVec.ofNat 8 n != 0) = decide ((n : Int) ≠ 0) := by
    rw [Bool.eq_iff_iff, bne_iff_ne, decide_eq_true_iff, ne_eq, ofNat_eq_zero_iff]
    omega
  rw [BitVec.ofInt_natCast, ← modDec_memWrite_header hm, ← henabled, ← modDec_memWrite_enabled hm,
    ← modDec_memWrite_type hm]
  exact ⟨completes_pstSetp (setParam_of_in_range (findField_header _ k) h0 hrange),
    completes_pstSetp (setParam_of_in_range (findField_enabled _ k) h0 hrange),
    completes_pstSetp (setParam_of_in_range (findField_type _ k) h0 hrange)⟩

end Sys2Proof.Machine
end

section
/-! SUPPORT. PST.SETP on a field of the body writes the body, which the typed views read (R176, R177; O41). -/

namespace Sys2Proof.Machine

theorem memWrite_cons_succ (x : Byte) (B : Bytes) (off n v : Nat) :
    memWrite (x :: B) (off + 1) n v = x :: memWrite B off n v := by
  induction n generalizing B off v with
  | zero => rfl
  | succ n ih => rw [memWrite, memWrite, List.set_cons_succ, ih]

/-- A field from byte 3 of the record on is a field of the body (R30). -/
theorem modDec_memWrite_body {m : EffectModule} {k : ModuleKind} (hm : m.wf k = true) (off n v : Nat) :
    modDec k (memWrite (modEnc m) (off + 3) n v) = { m with body := memWrite m.body off n v } := by
  have hrecord : memWrite (modEnc m) (off + 3) n v = modEnc { m with body := memWrite m.body off n v } := by
    simp only [modEnc, List.cons_append, List.nil_append, memWrite_cons_succ]
  rw [hrecord]
  refine modDec_modEnc (beq_iff_eq.mpr ?_)
  rw [memWrite_length, body_length_of_wf hm]

theorem hi8_ofNat (n : Nat) : hi8 (BitVec.ofNat 16 n) = BitVec.ofNat 8 (n / 256) := by
  apply BitVec.eq_of_toNat_eq
  simp only [hi8, BitVec.toNat_setWidth, BitVec.toNat_ushiftRight, BitVec.toNat_ofNat, Nat.shiftRight_eq_div_pow]
  omega

/-- A u16 written by MemWrite is read by le16 (R13, R14). -/
theorem le16_memWrite {B : Bytes} {off : Nat} (h : off + 2 ≤ B.length) (v : Nat) :
    le16 (memWrite B off 2 v) off = BitVec.ofNat 16 v := by
  have hlo : byteAt (memWrite B off 2 v) off = lo8 (BitVec.ofNat 16 v) := by
    rw [byteAt_memWrite_inside B off 2 v off h (by omega) (by omega), lo8_ofNat, Nat.sub_self, pow_zero, Nat.div_one]
  have hhi : byteAt (memWrite B off 2 v) (off + 1) = hi8 (BitVec.ofNat 16 v) := by
    rw [byteAt_memWrite_inside B off 2 v (off + 1) h (by omega) (by omega), Nat.add_sub_cancel_left, pow_one, hi8_ofNat]
  rw [le16, hlo, hhi, word16_lo8_hi8]

theorem slice_append_slice (B : Bytes) {a b c : Nat} (hab : a ≤ b) (hbc : b ≤ c) :
    slice B a b ++ slice B b c = slice B a c := by
  have hdrop : B.drop b = (B.drop a).drop (b - a) := by rw [List.drop_drop, Nat.add_sub_cancel' hab]
  rw [slice, slice, slice, hdrop, ← List.take_add]
  congr 1
  omega

theorem slice_set (B : Bytes) (a b i : Nat) (x : Byte) : slice (B.set (a + i) x) a b = (slice B a b).set i x := by
  rw [slice, slice, List.drop_set, if_neg (by omega), Nat.add_sub_cancel_left, List.take_set]

/-- The two halves of the bands are one field of twelve bytes (R177). -/
theorem eqBands_eq_slice (c : Params) (m : EffectModule) :
    eqBandsA c m ++ eqBandsB c m = slice m.body (c.eqBandsOff - 3) (c.eqBandsOff + 9) :=
  slice_append_slice m.body (by omega) (by omega)

/-- What R273 says of the two offsets: the fields lie in the bodies of delay and eq (R76, R77). -/
theorem offsets_of_valid {c : Params} (h : c.valid = true) :
    (3 ≤ c.delayTimeOff ∧ c.delayTimeOff ≤ 15) ∧ 3 ≤ c.eqBandsOff ∧ c.eqBandsOff ≤ 11 := by
  simp only [Params.valid, Bool.and_eq_true, decide_eq_true_eq] at h
  obtain ⟨⟨⟨⟨⟨hd, hd'⟩, he⟩, he'⟩, -⟩, -⟩ := h
  exact ⟨⟨hd, hd'⟩, he, he'⟩

/-- The delay module with time_ms written has the time (R176). -/
theorem delayTime_modDec_memWrite {c : Params} (hc : c.valid = true) {m : EffectModule} (hm : m.wf .delay = true)
    (v : Nat) : delayTime c (modDec .delay (memWrite (modEnc m) c.delayTimeOff 2 v)) = BitVec.ofNat 16 v := by
  obtain ⟨⟨hlo, hhi⟩, -⟩ := offsets_of_valid hc
  have hlen : m.body.length = 14 := body_length_of_wf hm
  obtain ⟨T, hT⟩ := Nat.exists_eq_add_of_le' hlo
  rw [delayTime, hT, modDec_memWrite_body hm, Nat.add_sub_cancel]
  exact le16_memWrite (by omega) v

/-- The eq module with band i written has the old bands but for that one (R177). -/
theorem eqBands_modDec_memWrite {c : Params} (hc : c.valid = true) {m : EffectModule} (hm : m.wf .eq = true)
    (i v : Nat) :
    eqBandsA c (modDec .eq (memWrite (modEnc m) (c.eqBandsOff + i) 1 v)) ++
        eqBandsB c (modDec .eq (memWrite (modEnc m) (c.eqBandsOff + i) 1 v)) =
      (eqBandsA c m ++ eqBandsB c m).set i (BitVec.ofNat 8 v) := by
  obtain ⟨-, hlo, -⟩ := offsets_of_valid hc
  have hoff : c.eqBandsOff + i = c.eqBandsOff - 3 + i + 3 := by omega
  rw [eqBands_eq_slice, eqBands_eq_slice, hoff, modDec_memWrite_body hm]
  exact slice_set ..

/-- Settles O41: the field is found under its settled name, and the view reads the rewritten body. -/
theorem setParamTimeAndBands : Obligations.SetParamTimeAndBands := by
  intro p s hp hc
  refine ⟨fun v h0 hv => ?_, fun i v h0 hv => ?_⟩
  · have hrange : v < 256 ^ 2 := by omega
    refine ⟨_, completes_pstSetp (setParam_of_in_range (findField_time _) h0 hrange), ?_⟩
    obtain ⟨n, rfl⟩ := Int.eq_ofNat_of_zero_le h0
    rw [BitVec.ofInt_natCast]
    exact delayTime_modDec_memWrite hc (presetModule_wf p .delay hp) n
  · have hrange : v < 256 ^ 1 := by omega
    refine ⟨_, completes_pstSetp (setParam_of_in_range (findField_band _ i) h0 hrange), ?_⟩
    obtain ⟨n, rfl⟩ := Int.eq_ofNat_of_zero_le h0
    rw [BitVec.ofInt_natCast]
    exact eqBands_modDec_memWrite hc (presetModule_wf p .eq hp) i n

end Sys2Proof.Machine
end

section
/-! SUPPORT. MOD.ENC.k and MOD.DEC.k for all nine kinds (R156 to R175, R179; O44, O45), and their round trip on both sides
(R180; O46). -/

namespace Sys2Proof.Machine

/-- Each of the nine encode operations is `encodeModule` at its own kind (R159 to R167). -/
theorem completes_modEncInstr (k : ModuleKind) (m : EffectModule) (s : State) :
    Completes (modEncInstr k m) s (.ok (.effectRecord k (modEnc m))) :=
  completes_done (by cases k <;> rfl)

/-- Each of the nine decode operations is `decodeModule` at its own kind (R168 to R175, R179). -/
theorem completes_modDecInstr (k : ModuleKind) (buf : Bytes) (s : State) :
    Completes (modDecInstr k buf) s (.ok (.effect k (modDec k buf))) :=
  completes_done (by cases k <;> rfl)

/-- MOD.DEC.k field by field, in the buffer's own bytes (R157, R158). -/
theorem modDec_eq_fields (k : ModuleKind) (buf : Bytes) :
    modDec k buf =
      ⟨byteAt buf 0, byteAt buf 1 != 0, byteAt buf 2, (List.range (k.size - 3)).map (fun i => byteAt buf (3 + i))⟩ := by
  rw [EffectModule.mk.injEq]
  exact ⟨modDec_header k buf, modDec_enabled k buf, modDec_type k buf,
    eq_map_byteAt (modDec_body_length k buf) fun _ => byteAt_modDec_body k buf⟩

/-- The byte side of R180: only the enabled byte is normalised. -/
theorem modEnc_modDec {k : ModuleKind} {b : Bytes} (hb : b.length = k.size) :
    modEnc (modDec k b) = b.set 1 (if byteAt b 1 = 0 then 0x00 else 0x01) := by
  have hlen : (modEnc (modDec k b)).length = k.size := modEnc_length_of_wf _ k (modDec_wf k b)
  refine ext_byteAt _ _ (by rw [hlen, List.length_set, hb]) fun i hi => ?_
  have hik : i < k.size := hlen ▸ hi
  rw [byteAt_modEnc_modDec k b hik, byteAt_set]
  exact if_congr ⟨fun h => ⟨h.symm, hb ▸ hik⟩, fun h => h.1.symm⟩ rfl rfl

/-- Settles O44: the record is `modEnc`, of the kind's length. -/
theorem moduleEncodeRecords : Obligations.ModuleEncodeRecords :=
  ⟨fun k m s hm => ⟨completes_modEncInstr k m s, modEnc_length_of_wf m k hm⟩, rfl⟩

/-- Settles O45: the decoded module, field by field. -/
theorem moduleDecodeRecords : Obligations.ModuleDecodeRecords := by
  intro k buf s
  rw [← modDec_eq_fields]
  exact completes_modDecInstr k buf s

/-- Settles O46: decoding inverts encoding, and encoding inverts decoding but for the enabled byte. -/
theorem moduleRoundTrip : Obligations.ModuleRoundTrip := by
  intro k s
  refine ⟨fun m hm => ⟨modEnc m, completes_modEncInstr k m s, ?_⟩,
    fun b hb => ⟨modDec k b, completes_modDecInstr k b s, ?_⟩⟩
  · have hdec := completes_modDecInstr k (modEnc m) s
    rwa [modDec_modEnc hm] at hdec
  · rw [← modEnc_modDec hb]
    exact completes_modEncInstr k (modDec k b) s

end Sys2Proof.Machine
end

section
/-! SUPPORT. The typed views of a module's body (R176, R177): what is set is read, and no other byte changes (O43). -/

namespace Sys2Proof.Machine

section
variable {c : Params} {m : EffectModule}

/-- delay_set_time is the MemWrite of the u16 at the field's place in the body (R14, R176). -/
theorem delaySetTime_body (hc : c.valid = true) (m : EffectModule) (v : Word) :
    (delaySetTime c m v).body = memWrite m.body (c.delayTimeOff - 3) 2 v.toNat := by
  obtain ⟨⟨hlo, -⟩, -⟩ := offsets_of_valid hc
  have hoff : c.delayTimeOff - 2 = c.delayTimeOff - 3 + 1 := by omega
  have hhigh : BitVec.ofNat 8 (v.toNat / 256) = hi8 v := by rw [← hi8_ofNat, BitVec.ofNat_toNat, BitVec.setWidth_eq]
  rw [memWrite, memWrite, memWrite, hhigh, delaySetTime, hoff]
  rfl

theorem delayTime_delaySetTime (hc : c.valid = true) (hm : m.wf .delay = true) (v : Word) :
    delayTime c (delaySetTime c m v) = v := by
  obtain ⟨⟨-, hhi⟩, -⟩ := offsets_of_valid hc
  have hlen : m.body.length = 14 := body_length_of_wf hm
  rw [delayTime, delaySetTime_body hc, le16_memWrite (by omega), BitVec.ofNat_toNat,
    BitVec.setWidth_eq]

theorem delaySetTime_wf (hm : m.wf .delay = true) (v : Word) : (delaySetTime c m v).wf .delay = true := by
  simpa only [EffectModule.wf, delaySetTime, List.length_set] using hm

theorem byteAt_delaySetTime_outside (hc : c.valid = true) (v : Word) {i : Nat} (h0 : i + 3 ≠ c.delayTimeOff)
    (h1 : i + 2 ≠ c.delayTimeOff) : byteAt (delaySetTime c m v).body i = byteAt m.body i := by
  obtain ⟨⟨hlo, -⟩, -⟩ := offsets_of_valid hc
  rw [delaySetTime_body hc]
  exact byteAt_memWrite_outside _ _ _ _ _ (by omega)

/-- Replacing the bytes from `a` to `b` by as many others leaves every byte outside alone. -/
theorem byteAt_splice_outside {B X : Bytes} {a b i : Nat} (hX : a + X.length = b) (hb : b ≤ B.length)
    (hi : i < a ∨ b ≤ i) : byteAt (B.take a ++ X ++ B.drop b) i = byteAt B i := by
  have hlen : (B.take a ++ X).length = b := by rw [List.length_append, List.length_take_of_le (by omega), hX]
  rcases hi with hi | hi
  · have htake : byteAt (B.take a) i = byteAt B i := by
      rw [byteAt, byteAt, List.getD_eq_getElem?_getD, List.getElem?_take_of_lt hi, List.getD_eq_getElem?_getD]
    rw [List.append_assoc, byteAt_append, List.length_take_of_le (by omega), if_pos hi, htake]
  · rw [byteAt_append, hlen, if_neg (by omega), byteAt, byteAt, List.getD_eq_getElem?_getD, List.getElem?_drop,
      Nat.add_sub_cancel' hi, List.getD_eq_getElem?_getD]

variable {a b : Bytes}

/-- The bands lie inside the body, so the new ones take up the place of the old (R177, R273). -/
theorem eqSetBands_body_length (hc : c.valid = true) (hm : m.wf .eq = true) (ha : a.length = 6) (hb : b.length = 6) :
    (eqSetBands c m a b).body.length = 20 := by
  obtain ⟨-, hlo, hhi⟩ := offsets_of_valid hc
  have hlen : m.body.length = 20 := body_length_of_wf hm
  simp only [eqSetBands, List.length_append, List.length_take, List.length_drop]
  omega

/-- The twelve bytes of the two views are the two groups set, one after the other; the first view is the first six. -/
theorem eqBands_eqSetBands (hc : c.valid = true) (hm : m.wf .eq = true) (ha : a.length = 6) (hb : b.length = 6) :
    eqBandsA c (eqSetBands c m a b) = a ∧ eqBandsB c (eqSetBands c m a b) = b := by
  obtain ⟨-, hlo, hhi⟩ := offsets_of_valid hc
  have hlen : m.body.length = 20 := body_length_of_wf hm
  have htake : (m.body.take (c.eqBandsOff - 3)).length = c.eqBandsOff - 3 := List.length_take_of_le (by omega)
  have hboth : eqBandsA c (eqSetBands c m a b) ++ eqBandsB c (eqSetBands c m a b) = a ++ b := by
    rw [eqBands_eq_slice]
    exact slice_middle _ _ _ _ _ htake (by rw [htake, List.length_append]; omega)
  have hsix : (eqBandsA c (eqSetBands c m a b)).length = a.length := by
    rw [eqBandsA, slice_length, eqSetBands_body_length hc hm ha hb]
    omega
  exact List.append_inj hboth hsix

theorem eqSetBands_wf (hc : c.valid = true) (hm : m.wf .eq = true) (ha : a.length = 6) (hb : b.length = 6) :
    (eqSetBands c m a b).wf .eq = true :=
  beq_iff_eq.mpr (eqSetBands_body_length hc hm ha hb)

theorem byteAt_eqSetBands_outside (hc : c.valid = true) (hm : m.wf .eq = true) (ha : a.length = 6) (hb : b.length = 6)
    {i : Nat} (hi : i + 3 < c.eqBandsOff ∨ c.eqBandsOff + 9 ≤ i) :
    byteAt (eqSetBands c m a b).body i = byteAt m.body i := by
  obtain ⟨-, hlo, hhi⟩ := offsets_of_valid hc
  have hlen : m.body.length = 20 := body_length_of_wf hm
  exact byteAt_splice_outside (by rw [List.length_append]; omega) (by omega) (by omega)

end

/-- Settles O43: each view reads the field its setter writes, and the setters write the body only. -/
theorem typedViewsReadWhatIsSet : Obligations.TypedViewsReadWhatIsSet := by
  intro c hc
  refine ⟨fun m v hm => ?_, fun m a b hm ha hb => ?_⟩
  · exact ⟨delayTime_delaySetTime hc hm v, delaySetTime_wf hm v, rfl, rfl, rfl,
      fun i => byteAt_delaySetTime_outside hc v⟩
  · obtain ⟨hA, hB⟩ := eqBands_eqSetBands hc hm ha hb
    exact ⟨hA, hB, eqSetBands_wf hc hm ha hb, rfl, rfl, rfl, fun i => byteAt_eqSetBands_outside hc hm ha hb⟩

end Sys2Proof.Machine
end

section
/-! SUPPORT. The command layer's requests (R206 to R214): what each builder answers in its ranges and outside them, and
the one report of a payload of at most two bytes (O47, O49, O51, O52). -/

namespace Sys2Proof.Machine

theorem Completes.of_eq {i : Instr} {s : State} {a b : Answer} (h : Completes i s a) (hab : a = b) : Completes i s b :=
  hab ▸ h

/-- A builder's argument that is not negative is sent as its own low byte (R206). -/
theorem narrow_eq_ofInt {v : Int} (h : 0 ≤ v) : narrow v = BitVec.ofInt 8 v := by
  lift v to Nat using h
  rfl

theorem narrow_toNat (b : Byte) : narrow b.toNat = b :=
  (BitVec.ofNat_toNat 8 b).trans (BitVec.setWidth_eq b)

/-- R105's first case, for the payloads FRM.BUILD takes: the report of FRAME1. -/
theorem buildChunked_of_le (crc : Bytes → Word) (c : Byte) {P : Bytes} (h : P.length ≤ 56) :
    buildChunked crc c P = .ok (.reports
      [[BitVec.ofNat 8 (7 + P.length), 0xAA, 0x55, BitVec.ofNat 8 (1 + P.length), 0x00, c] ++ P ++
        [lo8 (crc (c :: P)), hi8 (crc (c :: P))] ++ zeros (56 - P.length)]) := by
  obtain ⟨-, hb⟩ := (buildChunked_cases crc c P).resolve_right fun ⟨hlong, _⟩ => by omega
  rw [hb, messageReports_of_le (by rw [encodeMsg_length]; omega), chunkReport_encodeMsg crc c h]

theorem buildChunked_nil (crc : Bytes → Word) (c : Byte) :
    buildChunked crc c [] = .ok (.reports
      [[0x07, 0xAA, 0x55, 0x01, 0x00, c, lo8 (crc [c]), hi8 (crc [c])] ++ zeros 56]) :=
  buildChunked_of_le crc c (by simp)

theorem buildChunked_singleton (crc : Bytes → Word) (c x : Byte) :
    buildChunked crc c [x] = .ok (.reports
      [[0x08, 0xAA, 0x55, 0x02, 0x00, c, x, lo8 (crc [c, x]), hi8 (crc [c, x])] ++ zeros 55]) :=
  buildChunked_of_le crc c (by simp)

theorem buildChunked_pair (crc : Bytes → Word) (c x y : Byte) :
    buildChunked crc c [x, y] = .ok (.reports
      [[0x09, 0xAA, 0x55, 0x03, 0x00, c, x, y, lo8 (crc [c, x, y]), hi8 (crc [c, x, y])] ++ zeros 54]) :=
  buildChunked_of_le crc c (by simp)

section
variable (s : State) (id : Byte)

theorem buildSlot_of_inRange {slot : Int} (h0 : 0 ≤ slot) (h1 : slot ≤ 199) :
    buildSlot s id slot = buildChunked s.crc16 id [BitVec.ofInt 8 slot] := by
  obtain ⟨-, -, hb⟩ := (buildSlot_cases s id slot).resolve_left fun ⟨hbad, _⟩ => by omega
  rw [hb, narrow_eq_ofInt h0]

theorem buildSlot_of_outOfRange {slot : Int} (h : slot < 0 ∨ 199 < slot) :
    buildSlot s id slot = .boundary (.slotRange slot) :=
  ((buildSlot_cases s id slot).resolve_right fun ⟨_, _, _⟩ => by omega).2

theorem buildVolume_of_inRange {v : Int} (h0 : 0 ≤ v) (h1 : v ≤ 100) :
    buildVolume s id v = buildChunked s.crc16 id [BitVec.ofInt 8 v] := by
  obtain ⟨-, -, hb⟩ := (buildVolume_cases s id v).resolve_left fun ⟨hbad, _⟩ => by omega
  rw [hb, narrow_eq_ofInt h0]

theorem buildVolume_of_outOfRange {v : Int} (h : v < 0 ∨ 100 < v) :
    buildVolume s id v = .boundary (.volumeRange v) :=
  ((buildVolume_cases s id v).resolve_right fun ⟨_, _, _⟩ => by omega).2

theorem buildEffectParam_of_inRange {i v : Int} (hi0 : 0 ≤ i) (hi1 : i ≤ 255) (hv0 : 0 ≤ v) (hv1 : v ≤ 255) :
    buildEffectParam s id i v = buildChunked s.crc16 id [BitVec.ofInt 8 i, BitVec.ofInt 8 v] := by
  rcases buildEffectParam_cases s id i v with ⟨hbad, -⟩ | ⟨-, -, hbad, -⟩ | ⟨-, -, -, -, hb⟩
  · omega
  · omega
  · rw [hb, narrow_eq_ofInt hi0, narrow_eq_ofInt hv0]

/-- R210: the index is checked first, so the value does not matter. -/
theorem buildEffectParam_of_index_outOfRange {i : Int} (h : i < 0 ∨ 255 < i) (v : Int) :
    buildEffectParam s id i v = .boundary (.valueRange i) := by
  rcases buildEffectParam_cases s id i v with ⟨-, hb⟩ | ⟨_, _, -, -⟩ | ⟨_, _, -, -, -⟩
  · exact hb
  · omega
  · omega

theorem buildEffectParam_of_value_outOfRange {i v : Int} (hi0 : 0 ≤ i) (hi1 : i ≤ 255) (h : v < 0 ∨ 255 < v) :
    buildEffectParam s id i v = .boundary (.valueRange v) := by
  rcases buildEffectParam_cases s id i v with ⟨hbad, -⟩ | ⟨-, -, -, hb⟩ | ⟨-, -, _, _, -⟩
  · omega
  · exact hb
  · omega

/-- R211: the toggle's index is a byte and its value 1 or 0, so it is never refused. -/
theorem buildParam_toggle (on : Bool) :
    buildParam s id (.toggle on) =
      buildChunked s.crc16 id [s.params.enableParamIndex, if on then 0x01 else 0x00] := by
  have hindex : BitVec.ofInt 8 (s.params.enableParamIndex.toNat : Int) = s.params.enableParamIndex := by
    rw [← narrow_eq_ofInt (by omega), narrow_toNat]
  have hindexLt := s.params.enableParamIndex.isLt
  cases on <;> exact (buildEffectParam_of_inRange s id (by omega) (by omega) (by decide) (by decide)).trans
    (by rw [hindex]; rfl)

end

section
variable (s : State)

theorem completes_cmdPreset_request (slot : Int) : Completes (.cmdPreset (.request slot)) s (buildSlot s 0x83 slot) :=
  completes_done rfl

theorem completes_cmdActivePatch_request (slot : Int) :
    Completes (.cmdActivePatch (.request slot)) s (buildSlot s 0xA6 slot) :=
  completes_done rfl

theorem completes_cmdStorePatch_request (a : StoreArgs) :
    Completes (.cmdStorePatch (.request a)) s (buildStore s 0xA8 a) :=
  completes_done rfl

theorem completes_cmdVolume_request (v : Int) : Completes (.cmdVolume (.request v)) s (buildVolume s 0xA2 v) :=
  completes_done rfl

theorem completes_cmdIdentify_request :
    Completes (.cmdIdentify (.request ())) s (buildChunked s.crc16 0x10 s.params.identifyRequestPayload) :=
  completes_done rfl

theorem completes_cmdSystem_request (blob : Bytes) :
    Completes (.cmdSystem (.request blob)) s (buildChunked s.crc16 0xA1 blob) :=
  completes_done rfl

/-- The nine per-module commands are one builder at nine identifiers (R193 to R201, R206). -/
theorem completes_cmdModuleInstr_request (k : ModuleKind) (a : ParamArgs) :
    Completes (cmdModuleInstr k (.request a)) s (buildParam s (moduleCommandId k) a) :=
  completes_done (by cases k <;> rfl)

end

/-- Settles O47: in range the slot byte is the payload of one report, out of range the builder refuses it. -/
theorem slotRequests : Obligations.SlotRequests := by
  intro slot s
  refine ⟨fun ⟨h0, h1⟩ => ?_, fun h => ?_⟩
  · have hb (id : Byte) := (buildSlot_of_inRange s id h0 h1).trans (buildChunked_singleton ..)
    exact ⟨(completes_cmdActivePatch_request s slot).of_eq (hb 0xA6),
      (completes_cmdPreset_request s slot).of_eq (hb 0x83)⟩
  · have hb (id : Byte) := buildSlot_of_outOfRange s id h
    exact ⟨(completes_cmdActivePatch_request s slot).of_eq (hb 0xA6),
      (completes_cmdPreset_request s slot).of_eq (hb 0x83)⟩

/-- Settles O49: each kind's command is the per-module builder, whose cases are those of R210 and R211. -/
theorem moduleParamRequests : Obligations.ModuleParamRequests := by
  intro k s
  refine ⟨fun i v ⟨hi0, hi1, hv0, hv1⟩ => ?_, fun i v h => ?_, fun i v ⟨hi0, hi1⟩ h => ?_, fun on => ?_⟩
  · exact (completes_cmdModuleInstr_request s k _).of_eq
      ((buildEffectParam_of_inRange s _ hi0 hi1 hv0 hv1).trans (buildChunked_pair ..))
  · exact (completes_cmdModuleInstr_request s k _).of_eq (buildEffectParam_of_index_outOfRange s _ h v)
  · exact (completes_cmdModuleInstr_request s k _).of_eq (buildEffectParam_of_value_outOfRange s _ hi0 hi1 h)
  · exact (completes_cmdModuleInstr_request s k _).of_eq ((buildParam_toggle s _ on).trans (buildChunked_pair ..))

/-- Settles O51: in range the volume byte is the payload of one report, out of range the builder refuses it. -/
theorem volumeRequest : Obligations.VolumeRequest := by
  intro v s
  refine ⟨fun ⟨h0, h1⟩ => ?_, fun h => ?_⟩
  · exact (completes_cmdVolume_request s v).of_eq
      ((buildVolume_of_inRange s 0xA2 h0 h1).trans (buildChunked_singleton ..))
  · exact (completes_cmdVolume_request s v).of_eq (buildVolume_of_outOfRange s 0xA2 h)

/-- Settles O52: both requests return FRM.BUILDC's own outcome, which for an empty payload is one report. -/
theorem identifyAndSystemRequests : Obligations.IdentifyAndSystemRequests := by
  intro s
  refine ⟨⟨_, completes_cmdIdentify_request s, completes_frmBuildc ..⟩, fun h => ?_,
    fun blob => ⟨_, completes_cmdSystem_request s blob, completes_frmBuildc ..⟩⟩
  exact (completes_cmdIdentify_request s).of_eq (by rw [h, buildChunked_nil])

end Sys2Proof.Machine
end

section
/-! SUPPORT. The store request: the nine reports of a slot byte and a preset record (R209; O48). -/

namespace Sys2Proof.Machine

section
variable (s : State) (id : Byte) (a : StoreArgs)

theorem buildStore_of_ok (h0 : 0 ≤ a.slot) (h1 : a.slot ≤ 199) (hlen : a.record.length = 512) :
    buildStore s id a = buildChunked s.crc16 id (BitVec.ofInt 8 a.slot :: a.record) := by
  rcases buildStore_cases s id a with ⟨hbad, -⟩ | ⟨-, -, hbad, -⟩ | ⟨-, -, -, hb⟩
  · omega
  · exact absurd hlen hbad
  · rw [hb, narrow_eq_ofInt h0]

/-- R209, R250: the slot is checked first, so the record does not matter. -/
theorem buildStore_of_slot_outOfRange (h : a.slot < 0 ∨ 199 < a.slot) :
    buildStore s id a = .boundary (.slotRange a.slot) := by
  rcases buildStore_cases s id a with ⟨-, hb⟩ | ⟨_, _, -, -⟩ | ⟨_, _, -, -⟩
  · exact hb
  · omega
  · omega

theorem buildStore_of_size (h0 : 0 ≤ a.slot) (h1 : a.slot ≤ 199) (hlen : a.record.length ≠ 512) :
    buildStore s id a = .boundary (.storeSize a.record.length) := by
  rcases buildStore_cases s id a with ⟨hbad, -⟩ | ⟨-, -, -, hb⟩ | ⟨-, -, hgood, -⟩
  · omega
  · exact hb
  · exact absurd hgood hlen

end

/-- The meaningful slices of a message's reports concatenate to the message (R105, R126). -/
theorem reassembledBuffer_messageReports {M : Bytes} (h : 1 ≤ M.length) : reassembledBuffer (messageReports M) = M := by
  have hr : reassemble (messageReports M) = .ok M := by
    rw [messageReports_eq_map h, reassemble_chunkReports _ (messageSlices_short M), messageSlices_flatten]
  exact ((reassemble_eq_ok_iff _ _).mp hr).2.symm

/-- The length bytes of FRM.BUILDC's reports in order: 63 in all but the last, which has the remainder (R109). -/
theorem declaredLengths_of_frmBuildc {c : Byte} {P : Bytes} {s : State} {rs : List Bytes}
    (h : Completes (.frmBuildc c P) s (.ok (.reports rs))) :
    rs.map (fun r => (byteAt r 0).toNat) =
      (List.range rs.length).map fun j => if j + 1 < rs.length then 63 else 7 + P.length - 63 * (rs.length - 1) := by
  obtain ⟨-, -, hdeclared, -⟩ := buildChunkedCounts c P s rs h
  refine List.ext_getElem (by simp) fun j hj _ => ?_
  rw [List.length_map] at hj
  simp [hdeclared j hj]

/-- Settles O48: the reports are FRM.BUILDC's for a payload of 513 bytes, whose message of 520 bytes is cut into eight
full slices and one of 16. -/
theorem storeRequest : Obligations.StoreRequest := by
  intro slot record s
  have hstore := completes_cmdStorePatch_request s ⟨slot, record⟩
  refine ⟨fun ⟨h0, h1, hlen⟩ => ?_, fun h => ?_, fun ⟨h0, h1, hlen⟩ => ?_⟩
  · have hP : (BitVec.ofInt 8 slot :: record).length = 513 := by rw [List.length_cons, hlen]
    have hbuild := completes_frmBuildc_reports 0xA8 s (P := BitVec.ofInt 8 slot :: record) (by omega)
    obtain ⟨hcount, h64, -⟩ := buildChunkedCounts _ _ _ _ hbuild
    rw [hP] at hcount
    have hchunked := hstore.of_eq (buildStore_of_ok s 0xA8 _ h0 h1 hlen)
    have hreports := hchunked.of_eq ((completes_frmBuildc ..).unique hbuild)
    refine ⟨_, hreports, hbuild, hcount, h64, ?_, ?_⟩
    · rw [declaredLengths_of_frmBuildc hbuild, hcount, hP]
      rfl
    · rw [reassembledBuffer_messageReports (by rw [encodeMsg_length]; omega), encodeMsg, hP]
      rfl
  · exact hstore.of_eq (buildStore_of_slot_outOfRange s 0xA8 _ h)
  · exact hstore.of_eq (buildStore_of_size s 0xA8 _ h0 h1 hlen)

end Sys2Proof.Machine
end

section
/-! SUPPORT. Host calls in one step (R54): a call that runs an instruction returns what the instruction completes with;
the per-module builders by name (R206, R210, R211; O50). -/

namespace Sys2Proof.Machine

variable {c : Call} {i : Instr} {s : State} {a b : Answer}

theorem CallCompletes.of_eq (h : CallCompletes c s a) (hab : a = b) : CallCompletes c s b := hab ▸ h

/-- The outcome does not depend on the pending calls, so the instruction's is the call's (O8). -/
theorem callCompletes_of_exec (hperform : ∀ r, perform c r = exec i r) (h : Completes i s a) : CallCompletes c s a := by
  intro rest
  obtain ⟨b, hb, hb'⟩ := outcomeDependsOnOperandsAndParameters i s (s.withPending rest) rfl
  obtain rfl := h.unique hb
  rw [step_of_pending_cons (State.withPending_pending ..), State.withPending_withPending, hperform]
  exact hb'

theorem callCompletes_txn {x : Txn} (hd : decode x = .ok i) (h : Completes i s a) : CallCompletes (.txn x) s a :=
  callCompletes_of_exec (performTxn_of_decode_ok hd) h

theorem callCompletes_of_returns (hperform : ∀ r, perform c r = returns r a) : CallCompletes c s a := by
  intro rest
  rw [step_of_pending_cons (State.withPending_pending ..), State.withPending_withPending, hperform]
  exact ⟨_, rfl, rfl, rfl, rfl, rfl, rfl⟩

theorem decode_cmdModuleInstr_request (k : ModuleKind) (x : ParamArgs) :
    decode ⟨.cmd, moduleCommandId k, paramOperands x⟩ = .ok (cmdModuleInstr k (.request x)) := by
  cases k <;> exact (takeUse_ok param_form _ _ _).mpr ⟨.request x, rfl, rfl, rfl⟩

/-- A builder called by a module's name runs the module's command (R206). -/
theorem performByName_moduleName (k : ModuleKind) (x : ParamArgs) (r : State) :
    performByName (moduleName k) (paramOperands x) r = exec (cmdModuleInstr k (.request x)) r := by
  rw [performByName, moduleCommand_moduleName]
  exact performTxn_of_decode_ok (decode_cmdModuleInstr_request k x) r

/-- MODULE_COMMAND knows the nine names only (R206). -/
theorem moduleCommand_eq_none {name : String} (h : ∀ k, name ≠ moduleName k) : moduleCommand name = none :=
  (if_neg (h .fx)).trans <| (if_neg (h .od)).trans <| (if_neg (h .amp)).trans <| (if_neg (h .cab)).trans <|
    (if_neg (h .ns)).trans <| (if_neg (h .eq)).trans <| (if_neg (h .mod)).trans <| (if_neg (h .delay)).trans <|
      if_neg (h .reverb)

theorem performByName_unknown {name : String} (h : ∀ k, name ≠ moduleName k) (x : Operands) (r : State) :
    performByName name x r = returns r (.boundary (.unknownModule name)) := by
  rw [performByName, moduleCommand_eq_none h]

/-- Settles O50: a call by one of the nine names runs the kind's command, and a call by any other name stops at the
lookup. -/
theorem moduleParamByName : Obligations.ModuleParamByName := by
  refine ⟨fun k i v s => ?_, fun k on s => ?_, fun name i v on s h => ?_⟩
  · have hreq := completes_cmdModuleInstr_request s k (.set i v)
    exact ⟨_, hreq, callCompletes_of_exec (performByName_moduleName k (.set i v)) hreq⟩
  · have hreq := completes_cmdModuleInstr_request s k (.toggle on)
    exact ⟨_, hreq, callCompletes_of_exec (performByName_moduleName k (.toggle on)) hreq⟩
  · exact ⟨callCompletes_of_returns (performByName_unknown h (.param i v)),
      callCompletes_of_returns (performByName_unknown h (.toggle on))⟩

end Sys2Proof.Machine
end

section
/-! SUPPORT. The command enumeration (R190, R215, R217): the fifteen rows in one form, what the generic builder and the
response parser do with an identifier in it and outside it (O53, O54). -/

namespace Sys2Proof.Machine

/-- The response table (R217 to R224): the typed parser of a command byte, or none. -/
def responseParser (id : Byte) : Bytes → Option Response :=
  if id = 0x10 then parseIdentify
  else if id = 0xA1 then parseSystem
  else if id = 0x83 then parsePreset
  else if id = 0xA6 then parseActivePatch
  else if id = 0xA2 then parseVolume
  else noParser

/-- Each row of the enumeration is read by `takeUse` and means `commandUse` with its own builder and its entry of the
response table (R190 to R205). -/
theorem exists_commandUse_of_mem {id : Byte} (h : id ∈ commandIds) :
    ∃ (α : Type) (args : Operands → Option α) (row : CmdUse α → Instr) (build : State → Byte → α → Answer),
      (∀ x, decode ⟨.cmd, id, x⟩ = takeUse args x row) ∧
        ∀ u s, exec (row u) s = commandUse id build (responseParser id) u s := by
  simp only [commandIds, List.mem_cons, List.not_mem_nil, or_false] at h
  rcases h with rfl | rfl | rfl | rfl | rfl | rfl | rfl | rfl | rfl | rfl | rfl | rfl | rfl | rfl | rfl <;>
    exact ⟨_, _, _, _, fun _ => rfl, fun _ _ => rfl⟩

/-- The fifteen arms of the decoder are the enumeration. -/
theorem decode_unlisted {id : Byte} (h : id ∉ commandIds) (x : Operands) :
    decode ⟨.cmd, id, x⟩ = .error (.unknownCommand id) := by
  change decodeCmd id x = _
  unfold decodeCmd
  split
  case h_16 => rfl
  all_goals exact absurd (by decide) h

theorem performTxn_unlisted {id : Byte} (h : id ∉ commandIds) (x : Operands) (r : State) :
    performTxn ⟨.cmd, id, x⟩ r = performUnknownCommand id x r := by
  rw [performTxn, decode_unlisted h]

/-- Outside the enumeration the response table has no entry (R224). -/
theorem responseParser_unlisted {id : Byte} (h : id ∉ commandIds) : responseParser id = noParser := by
  have hne (c : Byte) (hc : c ∈ commandIds) : id ≠ c := fun he => h (he ▸ hc)
  rw [responseParser, if_neg (hne _ (by decide)), if_neg (hne _ (by decide)), if_neg (hne _ (by decide)),
    if_neg (hne _ (by decide)), if_neg (hne _ (by decide))]

/-- build_command of a byte's value is the generic use of that identifier (R215). -/
theorem performBuildCommand_toNat (id : Byte) (P : Bytes) (r : State) :
    performBuildCommand id.toNat P r = performTxn ⟨.cmd, id, .generic P⟩ r := by
  have hid := id.isLt
  rcases performBuildCommand_cases id.toNat P r with ⟨hbad, -⟩ | ⟨-, -, hp⟩
  · omega
  · rw [hp, narrow_toNat]

theorem performTxn_generic_unlisted {id : Byte} (h : id ∉ commandIds) (P : Bytes) (r : State) :
    performTxn ⟨.cmd, id, .generic P⟩ r = returns r (.boundary (.unknownCommand id.toNat)) :=
  performTxn_unlisted h (.generic P) r

/-- An integer that is none of the fifteen is refused, whether it is a byte or not (R215, entry 25). -/
theorem performBuildCommand_unlisted {id : Int} (h : ∀ c ∈ commandIds, id ≠ c.toNat) (P : Bytes) (r : State) :
    performBuildCommand id P r = returns r (.boundary (.unknownCommand id)) := by
  rcases performBuildCommand_cases id P r with ⟨-, hp⟩ | ⟨h0, h1, -⟩
  · exact hp
  · have hid : id = (narrow id).toNat := by
      rw [narrow, BitVec.toNat_ofNat]
      omega
    rw [hid, performBuildCommand_toNat, performTxn_generic_unlisted fun hmem => h _ hmem hid]

/-- Settles O53: the generic use of a listed identifier is FRM.BUILDC, any other identifier stops at the lookup, and the
framing operations have the two outcomes of R101, R102 and of R105, R108. -/
theorem genericBuildChecksTheEnumeration : Obligations.GenericBuildChecksTheEnumeration := by
  refine ⟨fun id P s => ⟨fun h => ?_, fun h => ?_⟩, fun id P s h => ?_, fun id P s => ⟨?_, ?_⟩⟩
  · obtain ⟨α, args, row, build, hdecode, hexec⟩ := exists_commandUse_of_mem h
    have hd : decode ⟨.cmd, id, .generic P⟩ = .ok (row (.generic P)) := hdecode (.generic P)
    have hrow : Completes (row (.generic P)) s (buildChunked s.crc16 id P) := completes_done (hexec (.generic P) s)
    refine ⟨_, completes_frmBuildc id P s, callCompletes_txn hd hrow, callCompletes_of_exec (fun r => ?_) hrow⟩
    exact (performBuildCommand_toNat id P r).trans (performTxn_of_decode_ok hd r)
  · exact callCompletes_of_returns (performTxn_generic_unlisted h P)
  · exact callCompletes_of_returns (performBuildCommand_unlisted h P)
  · rcases buildChunked_cases s.crc16 id P with ⟨hP, hb⟩ | ⟨hP, hb⟩
    · exact .inl ⟨hP, _, (completes_frmBuildc id P s).of_eq hb⟩
    · exact .inr ⟨hP, (completes_frmBuildc id P s).of_eq hb⟩
  · rcases buildFrame_cases s.crc16 id P with ⟨hP, hb⟩ | ⟨hP, hb⟩
    · exact .inl ⟨hP, _, (completes_frmBuild id P s).of_eq hb⟩
    · exact .inr ⟨hP, (completes_frmBuild id P s).of_eq hb⟩

/-- parse_response (R217, R224, R225): the response table's entry for the command byte, or the untyped frame. -/
theorem callCompletes_response (id : Byte) {P : Bytes} (hP : P.length ≤ 65534) (s : State) :
    CallCompletes (.txn ⟨.cmd, id, .response P⟩) s
      (.ok (.response ((responseParser id P).getD (.untyped ⟨id, P⟩)))) := by
  by_cases h : id ∈ commandIds
  · obtain ⟨α, args, row, build, hdecode, hexec⟩ := exists_commandUse_of_mem h
    have hd : decode ⟨.cmd, id, .response P⟩ = .ok (row (.response P)) := (hdecode (.response P)).trans (if_pos hP)
    exact callCompletes_txn hd (completes_done (hexec (.response P) s))
  · rw [responseParser_unlisted h]
    exact callCompletes_of_returns fun r => (performTxn_unlisted h (.response P) r).trans (if_pos hP)

/-- Settles O54: the response table's entry, parser by parser; the slot and volume parsers have nothing to read in an
empty payload. -/
theorem responseParserDispatch : Obligations.ResponseParserDispatch := by
  rintro ⟨id, P⟩ s hf
  refine (callCompletes_response id (of_decide_eq_true hf) s).of_eq (congrArg (fun x => Answer.ok (.response x)) ?_)
  unfold responseParser
  split_ifs with hIdentify hLong hSystem hPreset hActivePatch hVolume
  · rw [parseIdentify, if_pos hLong]
    rfl
  · rw [parseIdentify, if_neg hLong]
    rfl
  · rfl
  -- Preset, ActivePatch, Volume and the untyped rest differ only in what they make of a first byte.
  all_goals cases P <;> rfl

end Sys2Proof.Machine
end

section
/-! SUPPORT. The .mo file and the .gnr header (R231 to R233, R239 to R243; O55, O58), and what the file containers share:
a host call that reads the parameters only, and slices under offsets. -/

namespace Sys2Proof.Machine

/-- A call whose outcome depends on the parameters alone returns it whatever is pending behind it (R25). -/
theorem callCompletes_of_returns_params {c : Call} {f : Params → Answer}
    (hperform : ∀ r, perform c r = returns r (f r.params)) (s : State) : CallCompletes c s (f s.params) := by
  intro rest
  rw [step_of_pending_cons (State.withPending_pending ..), State.withPending_withPending, hperform]
  exact ⟨_, rfl, rfl, rfl, rfl, rfl, rfl⟩

theorem take_drop_eq_slice (B : Bytes) (a n : Nat) : (B.drop a).take n = slice B a (a + n) := by
  rw [slice, Nat.add_sub_cancel_left]

theorem slice_zero_left (B : Bytes) (n : Nat) : slice B 0 n = B.take n := rfl

theorem slice_slice (B : Bytes) {a b c d : Nat} (h : a + d ≤ b) : slice (slice B a b) c d = slice B (a + c) (a + d) := by
  rw [slice, slice, slice, List.drop_take, List.drop_drop, List.take_take]
  congr 1
  omega

theorem slice_min_length (B : Bytes) (a b : Nat) : slice B a (min b B.length) = slice B a b := by
  rw [slice, slice, List.take_eq_take_iff, List.length_drop]
  omega

theorem callCompletes_exportMo {p : Preset} (h : p.wf = true) (s : State) :
    CallCompletes (.exportMo p) s (.ok (.moFile (zeros 0x200 ++ presetEncode s.params p ++ zeros 0x400))) :=
  callCompletes_of_returns_params (c := .exportMo p) (f := fun c => exportMo c p) (fun _ => if_pos h) s

theorem callCompletes_importMo (F : Bytes) (s : State) : CallCompletes (.importMo F) s (importMo F) :=
  callCompletes_of_returns fun _ => rfl

theorem importMo_of_lt {F : Bytes} (h : F.length < 0x400) : importMo F = .boundary (.fileSize 0x400 F.length) := if_pos h

theorem importMo_of_le {F : Bytes} (h : 0x400 ≤ F.length) :
    importMo F = .ok (.preset (presetDecode (slice F 0x200 0x400))) := if_neg (Nat.not_lt.mpr h)

/-- Settles O55: the record is the middle part of the exported file, and import_mo decodes that part. -/
theorem moFileExportAndImport : Obligations.MoFileExportAndImport := by
  refine ⟨fun p s hp => ?_, fun F s hF => ?_, fun F s hF => ?_⟩
  · have hlen : (presetEncode s.params p).length = 512 := presetEncode_length_of_wf s.params p hp
    have hfile : (zeros 0x200 ++ presetEncode s.params p ++ zeros 0x400).length = 2048 := by
      simp only [List.length_append, zeros_length, hlen]
    refine ⟨presetEncode s.params p, completes_pstEnc p s, callCompletes_exportMo hp s, hfile,
      presetDecode (presetEncode s.params p), completes_pstDec _ s, (callCompletes_importMo _ s).of_eq ?_⟩
    rw [importMo_of_le (by omega), slice_middle _ _ _ _ _ (zeros_length _) (by rw [zeros_length, hlen])]
  · exact (callCompletes_importMo F s).of_eq (importMo_of_lt hF)
  · refine ⟨_, completes_pstDec _ s, (callCompletes_importMo F s).of_eq ?_⟩
    rw [importMo_of_le hF, take_drop_eq_slice]

theorem memRead_four (B : Bytes) (i : Nat) :
    memRead B i 4 = (byteAt B i).toNat + 2 ^ 8 * (byteAt B (i + 1)).toNat + 2 ^ 16 * (byteAt B (i + 2)).toNat +
      2 ^ 24 * (byteAt B (i + 3)).toNat := by
  simp only [memRead, Nat.add_assoc, Nat.reduceAdd]
  omega

/-- Settles O58: the two refusals in their order (R250), then the little-endian size and the info slice, whose clamp to the
file is what `take` does. -/
theorem gnrHeaderParse : Obligations.GnrHeaderParse := by
  intro F s
  have hcall : CallCompletes (.parseGnrHeader F) s (parseGnrHeader F) := callCompletes_of_returns fun _ => rfl
  refine hcall.of_eq ?_
  rw [← memRead_four F 8]
  simp only [parseGnrHeader, slice_min_length, slice_zero_left, take_drop_eq_slice]
  rfl

end Sys2Proof.Machine
end

section
/-! SUPPORT. The bytes of an .mbf file (R234 to R236): a header of three fields, then 199 entries of one length, each a
record and 34 reserved bytes (O59). -/

namespace Sys2Proof.Machine

/-- Sequences of one length w, joined: the i-th stands at w * i. -/
theorem slice_flatten_map_range {f : Nat → Bytes} {w : Nat} (hf : ∀ i, (f i).length = w) {n i : Nat} (hi : i < n) :
    slice ((List.range n).map f).flatten (w * i) (w * i + w) = f i := by
  have hconst : List.length ∘ f = fun _ => w := funext hf
  have hlengths : ((List.range n).map f).map List.length = List.replicate n w := by
    rw [List.map_map, hconst, List.map_const', List.length_range]
  have hsum (j : Nat) (hj : j ≤ n) : ((List.replicate n w).take j).sum = w * j := by
    rw [List.take_replicate, List.sum_replicate, min_eq_left hj, smul_eq_mul, Nat.mul_comm]
  have hslice := slice_flatten ((List.range n).map f) i (by simpa using hi)
  rw [hlengths, hsum i hi.le, hsum (i + 1) hi, Nat.mul_succ] at hslice
  simpa using hslice

/-- The record part of an .mbf entry (R235). -/
def mbfRecord (c : Params) (ps : List Preset) (i : Nat) : Bytes := (ps[i]?.map (presetEncode c)).getD (zeros 512)

theorem mbfEntry_eq_append (c : Params) (ps : List Preset) (i : Nat) :
    mbfEntry c ps i = mbfRecord c ps i ++ zeros 34 := by
  rw [mbfEntry, mbfRecord]
  cases ps[i]? <;> rfl

theorem mbfRecord_of_lt (c : Params) {ps : List Preset} {i : Nat} (h : i < ps.length) :
    mbfRecord c ps i = presetEncode c ps[i] := by
  rw [mbfRecord, List.getElem?_eq_getElem h]
  rfl

theorem mbfRecord_of_le (c : Params) {ps : List Preset} {i : Nat} (h : ps.length ≤ i) :
    mbfRecord c ps i = zeros 512 := by
  rw [mbfRecord, List.getElem?_eq_none h]
  rfl

theorem mbfVersion_length {c : Params} (h : c.valid = true) : c.mbfVersion.length = 4 := by
  simp only [Params.valid, Bool.and_eq_true, beq_iff_eq] at h
  exact h.2

theorem callCompletes_exportMbf {ps : List Preset} (hps : ∀ p ∈ ps, p.wf = true) (m n : Bytes) (s : State) :
    CallCompletes (.exportMbf m n ps) s (exportMbf s.params m n ps) :=
  callCompletes_of_returns_params (c := .exportMbf m n ps) (f := fun c => exportMbf c m n ps)
    (fun _ => if_pos (List.all_eq_true.mpr hps)) s

theorem exportMbf_of_lt (c : Params) (m n : Bytes) {ps : List Preset} (h : 199 < ps.length) :
    exportMbf c m n ps = .boundary (.fileSize 199 ps.length) := if_pos h

theorem exportMbf_of_le (c : Params) (m n : Bytes) {ps : List Preset} (h : ps.length ≤ 199) :
    exportMbf c m n ps = .ok (.mbfFile (mbfBytes c m n ps)) := if_neg (Nat.not_lt.mpr h)

section
variable (c : Params) (m n : Bytes) (ps : List Preset)

theorem slice_mbfBytes_manufacturer : slice (mbfBytes c m n ps) 0 8 = nameEnc c 8 m := by
  rw [mbfBytes, List.append_assoc, List.append_assoc, slice_append_left _ _ _ _ (nameEnc_length c 8 m).ge]
  exact slice_all _ _ (nameEnc_length c 8 m)

theorem slice_mbfBytes_model : slice (mbfBytes c m n ps) 8 40 = nameEnc c 32 n := by
  rw [mbfBytes, List.append_assoc]
  exact slice_middle _ _ _ _ _ (nameEnc_length ..) (by rw [nameEnc_length, nameEnc_length])

variable {c ps}

theorem slice_mbfBytes_version (hc : c.valid = true) : slice (mbfBytes c m n ps) 40 44 = c.mbfVersion :=
  slice_middle _ _ _ _ _ (by simp only [List.length_append, nameEnc_length])
    (by simp only [List.length_append, nameEnc_length, mbfVersion_length hc])

theorem slice_mbfBytes_entry (hc : c.valid = true) (hps : ∀ p ∈ ps, p.wf = true) {i : Nat} (hi : i < 199) :
    slice (mbfBytes c m n ps) (44 + 546 * i) (44 + 546 * i + 546) = mbfEntry c ps i := by
  have hheader : (nameEnc c 8 m ++ nameEnc c 32 n ++ c.mbfVersion).length = 44 := by
    simp only [List.length_append, nameEnc_length, mbfVersion_length hc]
  rw [mbfBytes, slice_append_right _ _ _ _ (by omega), hheader, Nat.add_sub_cancel_left,
    show 44 + 546 * i + 546 - 44 = 546 * i + 546 by omega]
  exact slice_flatten_map_range (fun j => mbfEntry_length c ps j hps) hi

theorem mbfRecord_length (hps : ∀ p ∈ ps, p.wf = true) (i : Nat) : (mbfRecord c ps i).length = 512 := by
  have h := mbfEntry_length c ps i hps
  rw [mbfEntry_eq_append, List.length_append, zeros_length] at h
  omega

/-- The record of entry i stands at 44 + 546 * i (R234, R235). -/
theorem slice_mbfBytes_record (hc : c.valid = true) (hps : ∀ p ∈ ps, p.wf = true) {i : Nat} (hi : i < 199) :
    slice (mbfBytes c m n ps) (44 + 546 * i) (44 + 546 * i + 512) = mbfRecord c ps i := by
  have h : slice (slice (mbfBytes c m n ps) (44 + 546 * i) (44 + 546 * i + 546)) 0 512 =
      slice (mbfBytes c m n ps) (44 + 546 * i) (44 + 546 * i + 512) := slice_slice _ (by omega)
  rw [slice_mbfBytes_entry m n hc hps hi, mbfEntry_eq_append] at h
  rw [← h, slice_append_left _ _ _ _ (mbfRecord_length hps i).ge]
  exact slice_all _ _ (mbfRecord_length hps i)

/-- The 34 reserved bytes behind the record are zero (R235). -/
theorem slice_mbfBytes_reserved (hc : c.valid = true) (hps : ∀ p ∈ ps, p.wf = true) {i : Nat} (hi : i < 199) :
    slice (mbfBytes c m n ps) (44 + 546 * i + 512) (44 + 546 * i + 546) = zeros 34 := by
  have hlen := mbfRecord_length (c := c) hps i
  rw [← slice_slice _ (le_refl _), slice_mbfBytes_entry m n hc hps hi, mbfEntry_eq_append,
    slice_append_right _ _ _ _ hlen.le, hlen]
  exact slice_all _ _ (zeros_length 34)

end

/-- The two bytes of the size field tell the record of a preset from zero bytes (R138). -/
theorem presetEncode_ne_zeros {c : Params} (hsize : c.sizeFieldValue ≠ 0) {p : Preset} (hp : p.wf = true) (n : Nat) :
    presetEncode c p ≠ zeros n := by
  intro h
  have hhi := byteAt_presetEncode_sizeField c hp 0 (by decide)
  have hlo := byteAt_presetEncode_sizeField c hp 1 (by decide)
  rw [h, byteAt_zeros, putBe16] at hhi hlo
  refine hsize ?_
  calc c.sizeFieldValue
    _ = word16 (lo8 c.sizeFieldValue) (hi8 c.sizeFieldValue) := (word16_lo8_hi8 _).symm
    _ = word16 0 0 := congrArg₂ word16 hlo.symm hhi.symm
    _ = 0 := rfl

/-- Settles O59: the header's fields and the entries at their offsets; the record of the empty preset is told from an
absent entry by its size field. -/
theorem mbfFileLayout : Obligations.MbfFileLayout := by
  intro m n ps s hlen hps hc
  have hrecord (i : Nat) (hi : i < 199) :
      ((mbfBytes s.params m n ps).drop (44 + 546 * i)).take 512 = mbfRecord s.params ps i :=
    (take_drop_eq_slice ..).trans (slice_mbfBytes_record m n hc hps hi)
  refine ⟨mbfBytes s.params m n ps, (callCompletes_exportMbf hps m n s).of_eq (exportMbf_of_le _ m n hlen),
    mbfBytes_length _ m n ps hps (mbfVersion_length hc), fun i hi => ?_, fun i hi => ?_,
    slice_mbfBytes_version m n hc, fun i hi => ?_, fun i hi hi' => ?_, fun i hi => ?_⟩
  · rw [← Nat.zero_add i, ← byteAt_slice _ 0 8 i hi, slice_mbfBytes_manufacturer, Nat.zero_add]
    exact byteAt_nameEnc _ m hi
  · rw [← byteAt_slice _ 8 40 i hi, slice_mbfBytes_model]
    exact byteAt_nameEnc _ n hi
  · rw [hrecord i (by omega), mbfRecord_of_lt _ hi]
    exact completes_pstEnc _ s
  · rw [hrecord i hi', mbfRecord_of_le _ hi]
    exact ⟨rfl, fun hsize => ⟨_, _, completes_pstNew s, completes_pstEnc _ s,
      (presetEncode_ne_zeros hsize emptyPreset_wf 512).symm⟩⟩
  · exact (take_drop_eq_slice ..).trans (slice_mbfBytes_reserved m n hc hps hi)

end Sys2Proof.Machine
end

section
/-! SUPPORT. import_mbf (R237): its fields, the whole entries it counts (O57), and that it reads back what export_mbf
wrote (O56). -/

namespace Sys2Proof.Machine

theorem callCompletes_importMbf (F : Bytes) (s : State) : CallCompletes (.importMbf F) s (importMbf F) :=
  callCompletes_of_returns fun _ => rfl

theorem importMbf_of_lt {F : Bytes} (h : F.length < 44) : importMbf F = .boundary (.fileSize 44 F.length) := if_pos h

/-- The backup that import_mbf returns for any file with a whole header. -/
theorem importMbf_of_le {F : Bytes} (h : 44 ≤ F.length) :
    importMbf F = .ok (.backup ⟨untilNull (slice F 0 8), untilNull (slice F 8 40), slice F 40 44,
      (List.range (min 199 ((F.length - 44) / 546))).map (mbfPreset F)⟩) := if_neg (Nat.not_lt.mpr h)

theorem wf_of_valid {p : Preset} (h : p.valid = true) : p.wf = true := (Bool.and_eq_true_iff.mp h).1

theorem mbfPreset_eq (F : Bytes) (i : Nat) :
    mbfPreset F i = presetDecode (slice F (44 + 546 * i) (44 + 546 * i + 512)) := rfl

/-- Settles O57: the bound on the presets written, and the header and the whole entries read. -/
theorem mbfSizes : Obligations.MbfSizes := by
  refine ⟨fun m n ps s hlen hps => ?_, fun F s hF => ?_, fun F s hF => ?_⟩
  · exact (callCompletes_exportMbf hps m n s).of_eq (exportMbf_of_lt _ m n hlen)
  · exact (callCompletes_importMbf F s).of_eq (importMbf_of_lt hF)
  · refine ⟨_, (callCompletes_importMbf F s).of_eq (importMbf_of_le hF), rfl, rfl, rfl, ?_, fun i hi => ?_⟩
    · rw [List.length_map, List.length_range]
    · rw [List.getElem_map, List.getElem_range, mbfPreset_eq, take_drop_eq_slice]
      exact completes_pstDec _ s

/-- The preset read from entry i of an exported file: the one written there (R149, R238), or the empty one. -/
theorem mbfPreset_mbfBytes {c : Params} (hc : c.valid = true) (m n : Bytes) {ps : List Preset}
    (hps : ∀ p ∈ ps, p.valid = true) {i : Nat} (hi : i < 199) :
    mbfPreset (mbfBytes c m n ps) i = ps[i]?.getD emptyPreset := by
  have hwf : ∀ p ∈ ps, p.wf = true := fun p hp => wf_of_valid (hps p hp)
  rw [mbfPreset_eq, slice_mbfBytes_record m n hc hwf hi]
  rcases lt_or_ge i ps.length with hlt | hge
  · rw [mbfRecord_of_lt c hlt, presetDecode_presetEncode c (hps _ (List.getElem_mem hlt)),
      List.getElem?_eq_getElem hlt, Option.getD_some]
  · rw [mbfRecord_of_le c hge, presetDecode_zeros, List.getElem?_eq_none hge, Option.getD_none]

/-- Settles O56: the exported file has 199 whole entries, and each is read back. -/
theorem mbfRoundTrip : Obligations.MbfRoundTrip := by
  intro m n ps s hlen hps hc
  have hwf : ∀ p ∈ ps, p.wf = true := fun p hp => wf_of_valid (hps p hp)
  have hfile : (mbfBytes s.params m n ps).length = 44 + 199 * 546 :=
    mbfBytes_length s.params m n ps hwf (mbfVersion_length hc)
  have hcount : min 199 (((mbfBytes s.params m n ps).length - 44) / 546) = 199 := by omega
  have himport := importMbf_of_le (F := mbfBytes s.params m n ps) (by omega)
  rw [hcount, slice_mbfBytes_version m n hc] at himport
  have hpreset (i : Nat) (hi : i < 199) :
      ((List.range 199).map (mbfPreset (mbfBytes s.params m n ps)))[i]? = some (ps[i]?.getD emptyPreset) := by
    rw [List.getElem?_map, List.getElem?_range hi, Option.map_some, mbfPreset_mbfBytes hc m n hps hi]
  refine ⟨_, _, (callCompletes_exportMbf hwf m n s).of_eq (exportMbf_of_le _ m n hlen), hfile,
    (callCompletes_importMbf _ s).of_eq himport, ?_, fun i hi => ?_, fun i hi hi' => ?_, rfl⟩
  · rw [List.length_map, List.length_range]
  · rw [hpreset i (by omega), List.getElem?_eq_getElem hi, Option.getD_some]
  · rw [hpreset i hi', List.getElem?_eq_none hi, Option.getD_none]

end Sys2Proof.Machine
end

section
/-! SUPPORT. Each outcome function of the model gives an outcome that R247 (R246 at the boundary) lists for its
operands: one lemma each, by the cases that Laws/ gives it. -/

namespace Sys2Proof.Machine

theorem inRange_iff (lo hi v : Int) : inRange lo hi v = true ↔ lo ≤ v ∧ v ≤ hi := by
  rw [inRange, Bool.and_eq_true, decide_eq_true_iff, decide_eq_true_iff]

theorem admits_frmBuild (c : Params) (crc : Bytes → Word) (id : Byte) (P : Bytes) :
    admits c (.frmBuild id P) (buildFrame crc id P) = true := by
  rcases buildFrame_cases crc id P with ⟨hP, h⟩ | ⟨hP, h⟩ <;> rw [h]
  · exact decide_eq_true hP
  · exact Bool.and_eq_true_iff.mpr ⟨beq_self_eq_true _, decide_eq_true hP⟩

theorem admitsChunked_buildChunked (crc : Bytes → Word) (id : Byte) (P : Bytes) :
    admitsChunked P (buildChunked crc id P) = true := by
  rcases buildChunked_cases crc id P with ⟨hP, h⟩ | ⟨hP, h⟩ <;> rw [h]
  · exact decide_eq_true hP
  · exact Bool.and_eq_true_iff.mpr ⟨beq_self_eq_true _, decide_eq_true hP⟩

theorem admitsParse_parseAnswer (e : Except NoFrameReason Frame) : admitsParse (parseAnswer e) = true := by
  cases e with
  | ok f => rfl
  | error r => rfl

theorem admitsSetParam_setParam (c : Params) (p : Preset) (k : ModuleKind) (field : String) (v : Int) :
    admitsSetParam c k field v (setParam c p k field v) = true := by
  rcases setParam_cases c p k field v with ⟨hf, h⟩ | ⟨e, hf, hv, h⟩ | ⟨e, hf, h0, hv, h⟩ <;> rw [h]
  · simp only [admitsSetParam, hf, beq_self_eq_true, Bool.and_self]
  · have hr : (!inRange 0 (256 ^ e.width - 1) v) = true := by rw [not_inRange_iff]; omega
    simp only [admitsSetParam, hf, hr, beq_self_eq_true, Bool.and_self]
  · have hr : inRange 0 (256 ^ e.width - 1) v = true := by rw [inRange_iff]; omega
    simp only [admitsSetParam, hf, hr]

theorem buildChunked_eq_reports {crc : Bytes → Word} {id : Byte} {P : Bytes} (h : P.length ≤ 65534) :
    buildChunked crc id P = .ok (.reports (messageReports (encodeMsg crc id P))) :=
  ((buildChunked_cases crc id P).resolve_right fun ⟨hlong, _⟩ => by omega).2

section
variable (s : State) (id : Byte)

/-! A request in range answers reports and never the length refusal: its payload has at most 513 bytes (R209). -/

theorem admitsSlot_buildSlot (slot : Int) : admitsSlot slot (buildSlot s id slot) = true := by
  rcases buildSlot_cases s id slot with ⟨hv, h⟩ | ⟨h0, h1, h⟩
  · rw [h]
    exact Bool.and_eq_true_iff.mpr ⟨beq_self_eq_true _, (not_inRange_iff ..).mpr hv⟩
  · rw [h.trans (buildChunked_eq_reports (by simp))]
    exact (inRange_iff ..).mpr ⟨h0, h1⟩

theorem admitsVolume_buildVolume (v : Int) : admitsVolume v (buildVolume s id v) = true := by
  rcases buildVolume_cases s id v with ⟨hv, h⟩ | ⟨h0, h1, h⟩
  · rw [h]
    exact Bool.and_eq_true_iff.mpr ⟨beq_self_eq_true _, (not_inRange_iff ..).mpr hv⟩
  · rw [h.trans (buildChunked_eq_reports (by simp))]
    exact (inRange_iff ..).mpr ⟨h0, h1⟩

theorem admitsStore_buildStore (a : StoreArgs) : admitsStore a (buildStore s id a) = true := by
  rcases buildStore_cases s id a with ⟨hv, h⟩ | ⟨h0, h1, hn, h⟩ | ⟨h0, h1, hn, h⟩
  · rw [h]
    exact Bool.and_eq_true_iff.mpr ⟨beq_self_eq_true _, (not_inRange_iff ..).mpr hv⟩
  · have hr : inRange 0 199 a.slot = true := (inRange_iff ..).mpr ⟨h0, h1⟩
    simp only [h, admitsStore, hr, beq_self_eq_true, bne_iff_ne.mpr hn, Bool.and_self]
  · rw [h.trans (buildChunked_eq_reports (by simp [hn]))]
    exact Bool.and_eq_true_iff.mpr ⟨(inRange_iff ..).mpr ⟨h0, h1⟩, beq_iff_eq.mpr hn⟩

theorem admitsParam_buildEffectParam (i v : Int) : admitsParam (.set i v) (buildEffectParam s id i v) = true := by
  rcases buildEffectParam_cases s id i v with ⟨hi, h⟩ | ⟨h0, h1, hv, h⟩ | ⟨h0, h1, hv0, hv1, h⟩
  · have hr : inRange 0 255 i = false := by rw [← Bool.not_eq_true', not_inRange_iff]; exact hi
    simp only [h, admitsParam, hr, Bool.false_eq_true, if_false, beq_self_eq_true]
  · have hr : inRange 0 255 i = true := (inRange_iff ..).mpr ⟨h0, h1⟩
    simp only [h, admitsParam, hr, if_true, beq_self_eq_true, (not_inRange_iff ..).mpr hv, Bool.and_self]
  · rw [h.trans (buildChunked_eq_reports (by simp))]
    exact Bool.and_eq_true_iff.mpr ⟨(inRange_iff ..).mpr ⟨h0, h1⟩, (inRange_iff ..).mpr ⟨hv0, hv1⟩⟩

theorem admitsParam_buildParam (a : ParamArgs) : admitsParam a (buildParam s id a) = true := by
  cases a with
  | set i v => exact admitsParam_buildEffectParam s id i v
  | toggle on =>
    rw [(buildParam_toggle s id on).trans (buildChunked_eq_reports (by simp))]
    rfl

end

end Sys2Proof.Machine
end

section
/-! SUPPORT. Every instruction ends with an outcome listed for it (O9, R245 to R247). -/

namespace Sys2Proof.Machine

variable {i : Instr} {s : State}

/-- What O9 says of an instruction: it completes, with an outcome that is listed for it. -/
def EndsAdmitted (i : Instr) (s : State) : Prop := ∃ a, Completes i s a ∧ admits s.params i a = true

theorem endsAdmitted_of_returns {a : Answer} (h : exec i s = returns s a) (ha : admits s.params i a = true) :
    EndsAdmitted i s :=
  ⟨a, completes_done h, ha⟩

theorem endsAdmitted_of_returnsParse {e : Except NoFrameReason Frame} (h : exec i s = returnsParse s e)
    (ha : admits s.params i (parseAnswer e) = true) : EndsAdmitted i s :=
  ⟨parseAnswer e, completes_parsed h, ha⟩

/-- A use of a command identifier ends with a listed outcome when its own builder does: a generic build is FRM.BUILDC's,
and a frame always gives a response (R215, R225). -/
theorem endsAdmitted_of_commandUse {α : Type} {id : Byte} {build : State → Byte → α → Answer}
    {parser : Bytes → Option Response} {request : α → Answer → Bool} {u : CmdUse α}
    (h : exec i s = commandUse id build parser u s) (hi : ∀ a, admits s.params i a = admitsUse request u a)
    (hb : ∀ x, request x (build s id x) = true) : EndsAdmitted i s := by
  cases u with
  | request x => exact endsAdmitted_of_returns h ((hi _).trans (hb x))
  | generic P => exact endsAdmitted_of_returns h ((hi _).trans (admitsChunked_buildChunked ..))
  | response P => exact endsAdmitted_of_returns h (hi _)

/-- Settles O9: instruction by instruction; what is left beside the builds, the parses, PST.SETP and the commands always
answers Ok with a result of its own kind. -/
theorem everyInstructionEndsWithItsOutcomes : Obligations.EveryInstructionEndsWithItsOutcomes := by
  intro i s
  change EndsAdmitted i s
  cases i with
  | frmBuild id P => exact endsAdmitted_of_returns rfl (admits_frmBuild ..)
  | frmBuildc id P => exact endsAdmitted_of_returns rfl (admitsChunked_buildChunked ..)
  | frmParse r => exact endsAdmitted_of_returnsParse rfl (admitsParse_parseAnswer _)
  | frmParsec rs => exact endsAdmitted_of_returnsParse rfl (admitsParse_parseAnswer _)
  | pstSetp p k field v => exact endsAdmitted_of_returns rfl (admitsSetParam_setParam ..)
  | cmdIdentify u => exact endsAdmitted_of_commandUse rfl (fun _ => rfl) fun _ => admitsChunked_buildChunked ..
  | cmdPreset u | cmdActivePatch u => exact endsAdmitted_of_commandUse rfl (fun _ => rfl) (admitsSlot_buildSlot s _)
  | cmdFx u | cmdOd u | cmdAmp u | cmdCab u | cmdNs u | cmdEq u | cmdMod u | cmdDelay u | cmdReverb u =>
    exact endsAdmitted_of_commandUse rfl (fun _ => rfl) (admitsParam_buildParam s _)
  | cmdSystem u => exact endsAdmitted_of_commandUse rfl (fun _ => rfl) fun _ => admitsChunked_buildChunked ..
  | cmdVolume u => exact endsAdmitted_of_commandUse rfl (fun _ => rfl) (admitsVolume_buildVolume s _)
  | cmdStorePatch u => exact endsAdmitted_of_commandUse rfl (fun _ => rfl) (admitsStore_buildStore s _)
  | _ => exact endsAdmitted_of_returns rfl rfl

end Sys2Proof.Machine
end

section
/-! SUPPORT. The idle step (entry 1, O5): the other branch of a step, beside `step_of_pending_cons`. -/

namespace Sys2Proof.Machine

theorem step_of_pending_nil {s : State} (hp : s.pending = []) : step s = .next s := by
  rw [step, hp]

/-- Settles O5: with no call pending the step takes its idle branch, and its result is the state it began in. -/
theorem idleStepChangesNothing : Obligations.IdleStepChangesNothing :=
  fun _ hp => step_of_pending_nil hp

end Sys2Proof.Machine
end
